-- ==== Sys2Proof/Config.lean ====
section
/-! DEFINITION. The build-time parameters of SEG-LUT (R6) that the spec leaves OPEN, each an opaque constant that
nothing in Lean can evaluate, and the fixed names and sizes of the four tables. -/

namespace Sys2Proof

/-- How much wider than 8 bits the code point is: `CP_WIDTH` is OPEN, an integer of at least 8 (R6, R20, decision
D2; log entry 6). -/
opaque Config.cpWidthAboveEight : Nat

/-- `CP_WIDTH`. -/
def Config.cpWidth : Nat := 8 + Config.cpWidthAboveEight

/-- Bits 6:0 of the table entry at a ROM address whose value the spec leaves OPEN (R6, decision D4; log entry 8).
Seven bits, because bit 7 of every entry is 0 (R30). -/
opaque Config.openEntry : Nat → BitVec 7

/-- `CP_TRUNC` at the code points where the spec calls it implementation-defined: all but 0..127 (R70, decision D3;
log entry 7). -/
opaque Config.cpTruncOutside : BitVec Config.cpWidth → BitVec 8

/-- The four constant tables of the pattern ROM (R17). -/
inductive RomTable where
  | upper | lower | digit | spec
  deriving DecidableEq, Repr

/-- The table sizes, "fixed" by the source (R6, R17). -/
def RomTable.size : RomTable → Nat
  | .upper => 26
  | .lower => 26
  | .digit => 10
  | .spec => 6

/-- The number of ROM entries, 26 + 26 + 10 + 6 (R28). -/
abbrev Config.romSize : Nat := 68

/-- The five classes of the classifier (R49). -/
inductive CharClass where
  | upper | lower | digit | special | none
  deriving DecidableEq, Repr

end Sys2Proof
end

