-- ==== Sys2Proof/Word.lean ====
section
/-! DEFINITION. The values SEG-LUT handles and the two kinds of word its decoders read. -/

namespace Sys2Proof

/-- A pattern or a character: `PAT_WIDTH` and `CHAR_WIDTH` are 8 (R6). -/
abbrev Byte := BitVec 8

/-- A code point: `CP_WIDTH` bits (R20). -/
abbrev CodePoint := BitVec Config.cpWidth

/-- An address of the pattern ROM (R28). -/
abbrev RomAddr := Fin Config.romSize

/-- A request of format `REQ` (R39). The three fields travel on separate ports and are packed into no word. -/
structure ReqWord where
  op : BitVec 2
  ch : Byte
  cp : CodePoint
  deriving DecidableEq, Repr

/-- A word of one of the two formats of the opcode table: a request, or a character that the character decoder
reads. -/
inductive TableWord where
  | req (r : ReqWord)
  | char (c : Byte)
  deriving DecidableEq, Repr

end Sys2Proof
end

