-- ==== Sys2Proof/Syntax.lean ====
section
/-! DEFINITION. The instructions of SEG-LUT: one constructor for each row of spec/opcode_table.json. -/

namespace Sys2Proof

/-- The rows of the opcode table. The four `enc…` constructors are the requests of format `REQ` (R39, R40): each
carries both operand fields of the request, the selected one and the one it ignores (R25). The `lut…` constructors
are the rows of format `CHAR` (R42): decode rows for the effective character, which the model runs as the lookup of
the request standing on the ports (log entry 1). -/
inductive Instr where
  /-- `ENC.CHAR`, `op = 00` (R65). -/
  | encChar (ch : Byte) (cp : CodePoint)
  /-- `ENC.CHAR.DP`, `op = 01` (R66). -/
  | encCharDp (ch : Byte) (cp : CodePoint)
  /-- `ENC.CP`, `op = 10` (R67). -/
  | encCp (ch : Byte) (cp : CodePoint)
  /-- `ENC.CP.DP`, `op = 11` (R68). -/
  | encCpDp (ch : Byte) (cp : CodePoint)
  -- Uppercase letters (R51).
  | lutUpperA | lutUpperB | lutUpperC | lutUpperD | lutUpperE | lutUpperF | lutUpperG
  | lutUpperH | lutUpperI | lutUpperJ | lutUpperK | lutUpperL | lutUpperM | lutUpperN
  | lutUpperO | lutUpperP | lutUpperQ | lutUpperR | lutUpperS | lutUpperT | lutUpperU
  | lutUpperV | lutUpperW | lutUpperX | lutUpperY | lutUpperZ
  -- Lowercase letters (R52).
  | lutLowerA | lutLowerB | lutLowerC | lutLowerD | lutLowerE | lutLowerF | lutLowerG
  | lutLowerH | lutLowerI | lutLowerJ | lutLowerK | lutLowerL | lutLowerM | lutLowerN
  | lutLowerO | lutLowerP | lutLowerQ | lutLowerR | lutLowerS | lutLowerT | lutLowerU
  | lutLowerV | lutLowerW | lutLowerX | lutLowerY | lutLowerZ
  -- Digits (R53).
  | lutDigit0 | lutDigit1 | lutDigit2 | lutDigit3 | lutDigit4 | lutDigit5 | lutDigit6
  | lutDigit7 | lutDigit8 | lutDigit9
  -- The six special characters (R54 to R59).
  | lutSpecEqual | lutSpecMinus | lutSpecUnderscore | lutSpecApostrophe | lutSpecQuote | lutSpecSpace
  /-- The default row: every other character (R60). `c` is the character, one of 188 codes. -/
  | lutNone (c : Byte)
  deriving DecidableEq, Repr

end Sys2Proof
end

