-- ==== Sys2Proof/Machine/State.lean ====
section
/-! DEFINITION. The state of SEG-LUT: its only storage, the pattern ROM (R17), its ports (R19 to R23), and the
requester's list of requests and outputs (R92), which are the model's own. -/

namespace Sys2Proof.Machine

/-- The pattern ROM as the entries that differ from the build-time contents, addresses strictly rising (log entry
8). An address that is not listed reads as its build-time entry. -/
abbrev Memory := List Host.Cell

/-- The state. The spec gives the block no register, no program counter, no flag and no hidden state (R13 to R16,
R18). -/
structure State where
  /-- The pattern ROM (R17, R28). -/
  mem : Memory
  /-- Port `src_sel` (R21). -/
  srcSel : Bool
  /-- Port `dp_en` (R22). -/
  dpEn : Bool
  /-- Port `ch_in` (R19). -/
  chIn : Byte
  /-- Port `cp_in` (R20). -/
  cpIn : CodePoint
  /-- Port `seg_out` (R23). -/
  segOut : Byte
  /-- The requester's requests not yet presented, first one first (R92; log entry 2). -/
  program : List ReqWord
  /-- The outputs given so far, oldest first (R92; log entry 2). -/
  outputs : List Byte
  deriving DecidableEq, Repr

/-- The faults: none. "A model of SEG-LUT has no fault outcome for any request" (R74; log entry 23). -/
inductive Fault where
  deriving DecidableEq, Repr

/-- The refusals. -/
inductive Refusal where
  /-- Raised by an arm of `exec` whose instruction has no meaning yet. No arm raises it: every row is modelled.
  Safe. -/
  | notModelled (mnemonic : String)
  deriving DecidableEq, Repr

/-- The machine from power-up. The tables hold their build-time contents (R26, R87): no entry differs from them.
DESIGN CHOICE (log entry 3): the inputs stand at zero, where the spec states no value. DEDUCED (log entry 4):
`seg_out` "has no separate reset value" (R26) and is `encode` of those inputs, the blank pattern of the NONE
character 0x00. DESIGN CHOICE (log entry 2): no request is waiting and no output has been given. -/
def State.reset : State where
  mem := []
  srcSel := false
  dpEn := false
  chIn := 0x00#8
  cpIn := 0#_
  segOut := 0x00#8
  program := []
  outputs := []

end Sys2Proof.Machine
end

