-- ==== Sys2Proof/Machine/Flags.lean ====
section
/-! DEFINITION. SEG-LUT has no flag and no condition code (R15). The one flag-like input is `dp_en`, and this is
what it does to the output. -/

namespace Sys2Proof.Machine

/-- The decimal-point merge `dpmerge(b, d) = (b & 0x7F) | (d ? 0x80 : 0x00)` (R69). -/
def dpMerge (b : Byte) (d : Bool) : Byte := (b &&& 0x7F#8) ||| (if d then 0x80#8 else 0x00#8)

end Sys2Proof.Machine
end

