-- ==== Sys2Proof/Machine/Ops.lean ====
section
/-! DEFINITION. The shared operations: the pattern ROM and its map, the configuration check, the classifier, the
base pattern, and driving the ports. Taking an exception is not among them: SEG-LUT has none (R74, R78, R79). -/

namespace Sys2Proof.Machine

/-! ### The pattern ROM -/

/-- Where each table starts in the linear ROM (R29; unobservable, log entry 10). -/
def romStart : RomTable → Nat
  | .upper => 0
  | .lower => 26
  | .digit => 52
  | .spec => 62

/-- Every entry of every table lies inside the 68-entry ROM (R28, R29). -/
theorem romStart_add_lt (t : RomTable) (i : Fin t.size) : romStart t + i.val < Config.romSize := by
  have h := i.isLt
  cases t <;> simp only [RomTable.size] at h <;> simp only [romStart, Config.romSize] <;> omega

/-- The address of entry `i` of table `t` (R29). -/
def romAddr (t : RomTable) (i : Fin t.size) : RomAddr := ⟨romStart t + i.val, romStart_add_lt t i⟩

/-- The build-time contents (R6, R26): the three entries the source gives, UPPER_ROM[0] = 0x77 at address 0,
DIGIT_ROM[8] = 0x7F at 60 and SPEC_ROM[5] = 0x00 at 67 (log entry 9), and the 65 OPEN ones, whose bit 7 is 0
(R30; log entry 8). -/
def buildEntry (a : RomAddr) : Byte :=
  if a.val = 0 then 0x77#8
  else if a.val = 60 then 0x7F#8
  else if a.val = 67 then 0x00#8
  else (Config.openEntry a.val).setWidth 8

/-- The entry at an address: what is listed there, else the build-time entry. -/
def Memory.byteAt (m : Memory) (a : RomAddr) : Byte := (m.lookup a.val).getD (buildEntry a)

/-- `RomRead(T, i)`: one whole entry, with no side effect (R31). The index is in range by its type (R62). -/
def romRead (m : Memory) (t : RomTable) (i : Fin t.size) : Byte := m.byteAt (romAddr t i)

/-- A listed cell is canonical: its address exists and its entry is not the build-time one. -/
def cellDiffers (x : Host.Cell) : Bool :=
  if h : x.1 < Config.romSize then decide (x.2 ≠ buildEntry ⟨x.1, h⟩) else false

/-- The canonical form: addresses strictly rising, every listed cell different from the build-time entry. -/
def Memory.wf (m : Memory) : Bool :=
  decide (m.Pairwise (fun x y => x.1 < y.1)) && m.all cellDiffers

/-- The canonical memory with given contents. It is the build of another instantiation of the tables (R6): no
request writes the ROM (R33), so no step calls it. -/
def Memory.ofContents (f : RomAddr → Byte) : Memory :=
  (List.finRange Config.romSize).filterMap
    (fun a => if f a = buildEntry a then none else some (a.val, f a))

/-- The model's configuration check (R6, R30, decision D23): bit 7 of every entry is 0 and the three fixed entries
are as the source gives them. A build is refused where it answers false. It is no check of a step (log entry 14). -/
def tablesAdmitted (f : RomAddr → Byte) : Bool :=
  (List.finRange Config.romSize).all (fun a => !(f a).getLsbD 7) &&
    f (romAddr .upper ⟨0, by decide⟩) == 0x77#8 &&
    f (romAddr .digit ⟨8, by decide⟩) == 0x7F#8 &&
    f (romAddr .spec ⟨5, by decide⟩) == 0x00#8

/-- The configuration check on a memory's contents. -/
def Memory.admitted (m : Memory) : Bool := tablesAdmitted m.byteAt

/-! ### Classification and the base pattern -/

/-- The classifier (R49): the tests in the source's order, unsigned on 8 bits (R63). -/
def classify (c : Byte) : CharClass :=
  if 0x41 ≤ c.toNat ∧ c.toNat ≤ 0x5A then .upper
  else if 0x61 ≤ c.toNat ∧ c.toNat ≤ 0x7A then .lower
  else if 0x30 ≤ c.toNat ∧ c.toNat ≤ 0x39 then .digit
  else if c = 0x3D#8 ∨ c = 0x2D#8 ∨ c = 0x5F#8 ∨ c = 0x27#8 ∨ c = 0x22#8 ∨ c = 0x20#8 then .special
  else .none

/-- The index of a character from its class anchor: the 8-bit unsigned difference (R43). -/
def anchorIndex (anchor c : Byte) : Nat := (c - anchor).toNat

/-- `spec_index` (R61; the indices are the spec's decision D9, log entry 11). It is applied to the six special codes
only, so the last case is the space. -/
def specIndex (c : Byte) : Fin RomTable.spec.size :=
  if c = 0x3D#8 then ⟨0, by decide⟩
  else if c = 0x2D#8 then ⟨1, by decide⟩
  else if c = 0x5F#8 then ⟨2, by decide⟩
  else if c = 0x27#8 then ⟨3, by decide⟩
  else if c = 0x22#8 then ⟨4, by decide⟩
  else ⟨5, by decide⟩

/-- An UPPER index is below 26: the test has passed, so the difference does not wrap (R62). -/
theorem upper_index_lt {c : Byte} (h : classify c = .upper) : anchorIndex 0x41#8 c < RomTable.upper.size := by
  revert c; decide

/-- A LOWER index is below 26 (R62). -/
theorem lower_index_lt {c : Byte} (h : classify c = .lower) : anchorIndex 0x61#8 c < RomTable.lower.size := by
  revert c; decide

/-- A DIGIT index is below 10 (R62). -/
theorem digit_index_lt {c : Byte} (h : classify c = .digit) : anchorIndex 0x30#8 c < RomTable.digit.size := by
  revert c; decide

/-- The base pattern of a character, before the decimal-point merge (R61). -/
def base (m : Memory) (c : Byte) : Byte :=
  match h : classify c with
  | .upper => romRead m .upper ⟨anchorIndex 0x41#8 c, upper_index_lt h⟩
  | .lower => romRead m .lower ⟨anchorIndex 0x61#8 c, lower_index_lt h⟩
  | .digit => romRead m .digit ⟨anchorIndex 0x30#8 c, digit_index_lt h⟩
  | .special => romRead m .spec (specIndex c)
  | .none => 0x00#8

/-! ### The ports -/

/-- The requester puts the four values of a request on the input ports, held stable together (R89). -/
def State.present (srcSel dpEn : Bool) (ch : Byte) (cp : CodePoint) (s : State) : State :=
  { s with srcSel := srcSel, dpEn := dpEn, chIn := ch, cpIn := cp }

/-- `out <- v` (R8): drive `seg_out`. -/
def State.drive (v : Byte) (s : State) : State := { s with segOut := v }

/-- A request completes with one output (R73, R92): `seg_out` is driven and the run's list grows by it. -/
def State.answer (v : Byte) (s : State) : State := { s with segOut := v, outputs := s.outputs ++ [v] }

/-- The lookup of one table entry for the request standing on the ports: the entry, merged with `dp_en` (R69), on
`seg_out` (R73). -/
def State.lookupEntry (t : RomTable) (i : Fin t.size) (s : State) : State :=
  s.drive (dpMerge (romRead s.mem t i) s.dpEn)

/-- The lookup of a character outside the four classes: the all-off pattern, merged with `dp_en` (R60, R69). -/
def State.lookupBlank (s : State) : State := s.drive (dpMerge 0x00#8 s.dpEn)

end Sys2Proof.Machine
end

