-- ==== Sys2Proof/Machine/Operands.lean ====
section
/-! DEFINITION. The operands of a request: the code-point truncation, the effective character, and the request
function over them. -/

namespace Sys2Proof.Machine

/-- A truncation that is `cp[7:0]` at 0..127, as R70 requires, and `outside` at every other code point. -/
def cpTruncBy {w : Nat} (outside : BitVec w → Byte) (cp : BitVec w) : Byte :=
  if cp.toNat ≤ 127 then cp.setWidth 8 else outside cp

/-- `CP_TRUNC` (R70), open outside 0..127 (log entry 7). -/
def cpTrunc (cp : CodePoint) : Byte := cpTruncBy Config.cpTruncOutside cp

/-- `CP_TRUNC_default(cp) = cp[7:0]` (R70): the default instantiation, for smoke tests. No step uses it. -/
def cpTruncDefault {w : Nat} (cp : BitVec w) : Byte := cp.setWidth 8

/-- The constraint on a truncation (R70): the configuration check's test of `CP_TRUNC` (95_test_vectors.md K5, K6). -/
def TruncAdmitted {w : Nat} (f : BitVec w → Byte) : Prop := ∀ cp : BitVec w, cp.toNat ≤ 127 → f cp = cp.setWidth 8

/-- The effective character `c = (op[1] == 0) ? ch : CP_TRUNC(cp)` (R41), for a given truncation. -/
def effectiveChar {w : Nat} (trunc : BitVec w → Byte) (srcSel : Bool) (ch : Byte) (cp : BitVec w) : Byte :=
  if srcSel then trunc cp else ch

/-- The request function `encode(op, ch, cp)` (R73), for a given truncation and given tables. -/
def segEncode {w : Nat} (trunc : BitVec w → Byte) (m : Memory) (op : BitVec 2) (ch : Byte) (cp : BitVec w) : Byte :=
  dpMerge (base m (effectiveChar trunc (op.getLsbD 1) ch cp)) (op.getLsbD 0)

/-- `op = src_sel : dp_en` (R39, R73). -/
def opOf (srcSel dpEn : Bool) : BitVec 2 := BitVec.ofBool srcSel ++ BitVec.ofBool dpEn

/-- What a request gives on this machine. -/
def requestOutput (m : Memory) (r : ReqWord) : Byte := segEncode cpTrunc m r.op r.ch r.cp

/-- The request that stands on the input ports (R89). -/
def State.portRequest (s : State) : ReqWord := ⟨opOf s.srcSel s.dpEn, s.chIn, s.cpIn⟩

/-- The effective character of the request standing on the ports (R41). -/
def State.effective (s : State) : Byte := effectiveChar cpTrunc s.srcSel s.chIn s.cpIn

end Sys2Proof.Machine
end

