-- ==== Sys2Proof/Machine/LutDigit.lean ====
section
/-! DEFINITION. Digits '0'..'9': base(c) = RomRead(DIGIT_ROM, c - 0x30) (R53). Each row reads its one entry and drives `seg_out` with it, merged
with the `dp_en` that stands on its port (log entry 1). No flag and no exception. -/

namespace Sys2Proof.Machine

/-- `LUT.DIGIT '0'`, code 0x30, index 0 (R53). -/
def execLutDigit0 (s : State) : Host.Outcome State Fault Refusal :=
  .next (s.lookupEntry .digit ⟨0, by decide⟩)

/-- `LUT.DIGIT '1'`, code 0x31, index 1 (R53). -/
def execLutDigit1 (s : State) : Host.Outcome State Fault Refusal :=
  .next (s.lookupEntry .digit ⟨1, by decide⟩)

/-- `LUT.DIGIT '2'`, code 0x32, index 2 (R53). -/
def execLutDigit2 (s : State) : Host.Outcome State Fault Refusal :=
  .next (s.lookupEntry .digit ⟨2, by decide⟩)

/-- `LUT.DIGIT '3'`, code 0x33, index 3 (R53). -/
def execLutDigit3 (s : State) : Host.Outcome State Fault Refusal :=
  .next (s.lookupEntry .digit ⟨3, by decide⟩)

/-- `LUT.DIGIT '4'`, code 0x34, index 4 (R53). -/
def execLutDigit4 (s : State) : Host.Outcome State Fault Refusal :=
  .next (s.lookupEntry .digit ⟨4, by decide⟩)

/-- `LUT.DIGIT '5'`, code 0x35, index 5 (R53). -/
def execLutDigit5 (s : State) : Host.Outcome State Fault Refusal :=
  .next (s.lookupEntry .digit ⟨5, by decide⟩)

/-- `LUT.DIGIT '6'`, code 0x36, index 6 (R53). -/
def execLutDigit6 (s : State) : Host.Outcome State Fault Refusal :=
  .next (s.lookupEntry .digit ⟨6, by decide⟩)

/-- `LUT.DIGIT '7'`, code 0x37, index 7 (R53). -/
def execLutDigit7 (s : State) : Host.Outcome State Fault Refusal :=
  .next (s.lookupEntry .digit ⟨7, by decide⟩)

/-- `LUT.DIGIT '8'`, code 0x38, index 8 (R53). -/
def execLutDigit8 (s : State) : Host.Outcome State Fault Refusal :=
  .next (s.lookupEntry .digit ⟨8, by decide⟩)

/-- `LUT.DIGIT '9'`, code 0x39, index 9 (R53). -/
def execLutDigit9 (s : State) : Host.Outcome State Fault Refusal :=
  .next (s.lookupEntry .digit ⟨9, by decide⟩)

end Sys2Proof.Machine
end

