-- ==== Sys2Proof/Machine/LutLower.lean ====
section
/-! DEFINITION. Lowercase letters 'a'..'z': base(c) = RomRead(LOWER_ROM, c - 0x61) (R52). Each row reads its one entry and drives `seg_out` with it, merged
with the `dp_en` that stands on its port (log entry 1). No flag and no exception. -/

namespace Sys2Proof.Machine

/-- `LUT.LOWER 'a'`, code 0x61, index 0 (R52). -/
def execLutLowerA (s : State) : Host.Outcome State Fault Refusal :=
  .next (s.lookupEntry .lower ⟨0, by decide⟩)

/-- `LUT.LOWER 'b'`, code 0x62, index 1 (R52). -/
def execLutLowerB (s : State) : Host.Outcome State Fault Refusal :=
  .next (s.lookupEntry .lower ⟨1, by decide⟩)

/-- `LUT.LOWER 'c'`, code 0x63, index 2 (R52). -/
def execLutLowerC (s : State) : Host.Outcome State Fault Refusal :=
  .next (s.lookupEntry .lower ⟨2, by decide⟩)

/-- `LUT.LOWER 'd'`, code 0x64, index 3 (R52). -/
def execLutLowerD (s : State) : Host.Outcome State Fault Refusal :=
  .next (s.lookupEntry .lower ⟨3, by decide⟩)

/-- `LUT.LOWER 'e'`, code 0x65, index 4 (R52). -/
def execLutLowerE (s : State) : Host.Outcome State Fault Refusal :=
  .next (s.lookupEntry .lower ⟨4, by decide⟩)

/-- `LUT.LOWER 'f'`, code 0x66, index 5 (R52). -/
def execLutLowerF (s : State) : Host.Outcome State Fault Refusal :=
  .next (s.lookupEntry .lower ⟨5, by decide⟩)

/-- `LUT.LOWER 'g'`, code 0x67, index 6 (R52). -/
def execLutLowerG (s : State) : Host.Outcome State Fault Refusal :=
  .next (s.lookupEntry .lower ⟨6, by decide⟩)

/-- `LUT.LOWER 'h'`, code 0x68, index 7 (R52). -/
def execLutLowerH (s : State) : Host.Outcome State Fault Refusal :=
  .next (s.lookupEntry .lower ⟨7, by decide⟩)

/-- `LUT.LOWER 'i'`, code 0x69, index 8 (R52). -/
def execLutLowerI (s : State) : Host.Outcome State Fault Refusal :=
  .next (s.lookupEntry .lower ⟨8, by decide⟩)

/-- `LUT.LOWER 'j'`, code 0x6A, index 9 (R52). -/
def execLutLowerJ (s : State) : Host.Outcome State Fault Refusal :=
  .next (s.lookupEntry .lower ⟨9, by decide⟩)

/-- `LUT.LOWER 'k'`, code 0x6B, index 10 (R52). -/
def execLutLowerK (s : State) : Host.Outcome State Fault Refusal :=
  .next (s.lookupEntry .lower ⟨10, by decide⟩)

/-- `LUT.LOWER 'l'`, code 0x6C, index 11 (R52). -/
def execLutLowerL (s : State) : Host.Outcome State Fault Refusal :=
  .next (s.lookupEntry .lower ⟨11, by decide⟩)

/-- `LUT.LOWER 'm'`, code 0x6D, index 12 (R52). -/
def execLutLowerM (s : State) : Host.Outcome State Fault Refusal :=
  .next (s.lookupEntry .lower ⟨12, by decide⟩)

/-- `LUT.LOWER 'n'`, code 0x6E, index 13 (R52). -/
def execLutLowerN (s : State) : Host.Outcome State Fault Refusal :=
  .next (s.lookupEntry .lower ⟨13, by decide⟩)

/-- `LUT.LOWER 'o'`, code 0x6F, index 14 (R52). -/
def execLutLowerO (s : State) : Host.Outcome State Fault Refusal :=
  .next (s.lookupEntry .lower ⟨14, by decide⟩)

/-- `LUT.LOWER 'p'`, code 0x70, index 15 (R52). -/
def execLutLowerP (s : State) : Host.Outcome State Fault Refusal :=
  .next (s.lookupEntry .lower ⟨15, by decide⟩)

/-- `LUT.LOWER 'q'`, code 0x71, index 16 (R52). -/
def execLutLowerQ (s : State) : Host.Outcome State Fault Refusal :=
  .next (s.lookupEntry .lower ⟨16, by decide⟩)

/-- `LUT.LOWER 'r'`, code 0x72, index 17 (R52). -/
def execLutLowerR (s : State) : Host.Outcome State Fault Refusal :=
  .next (s.lookupEntry .lower ⟨17, by decide⟩)

/-- `LUT.LOWER 's'`, code 0x73, index 18 (R52). -/
def execLutLowerS (s : State) : Host.Outcome State Fault Refusal :=
  .next (s.lookupEntry .lower ⟨18, by decide⟩)

/-- `LUT.LOWER 't'`, code 0x74, index 19 (R52). -/
def execLutLowerT (s : State) : Host.Outcome State Fault Refusal :=
  .next (s.lookupEntry .lower ⟨19, by decide⟩)

/-- `LUT.LOWER 'u'`, code 0x75, index 20 (R52). -/
def execLutLowerU (s : State) : Host.Outcome State Fault Refusal :=
  .next (s.lookupEntry .lower ⟨20, by decide⟩)

/-- `LUT.LOWER 'v'`, code 0x76, index 21 (R52). -/
def execLutLowerV (s : State) : Host.Outcome State Fault Refusal :=
  .next (s.lookupEntry .lower ⟨21, by decide⟩)

/-- `LUT.LOWER 'w'`, code 0x77, index 22 (R52). -/
def execLutLowerW (s : State) : Host.Outcome State Fault Refusal :=
  .next (s.lookupEntry .lower ⟨22, by decide⟩)

/-- `LUT.LOWER 'x'`, code 0x78, index 23 (R52). -/
def execLutLowerX (s : State) : Host.Outcome State Fault Refusal :=
  .next (s.lookupEntry .lower ⟨23, by decide⟩)

/-- `LUT.LOWER 'y'`, code 0x79, index 24 (R52). -/
def execLutLowerY (s : State) : Host.Outcome State Fault Refusal :=
  .next (s.lookupEntry .lower ⟨24, by decide⟩)

/-- `LUT.LOWER 'z'`, code 0x7A, index 25 (R52). -/
def execLutLowerZ (s : State) : Host.Outcome State Fault Refusal :=
  .next (s.lookupEntry .lower ⟨25, by decide⟩)

end Sys2Proof.Machine
end

