-- ==== Sys2Proof/Machine/LutSpecial.lean ====
section
/-! DEFINITION. The six special characters (R54 to R59) and the default row (R60). Each row reads its one entry and drives `seg_out` with it, merged
with the `dp_en` that stands on its port (log entry 1). No flag and no exception. -/

namespace Sys2Proof.Machine

/-- `LUT.SPECIAL '='`, code 0x3D, index 0 (R54). -/
def execLutSpecEqual (s : State) : Host.Outcome State Fault Refusal :=
  .next (s.lookupEntry .spec ⟨0, by decide⟩)

/-- `LUT.SPECIAL '-'`, code 0x2D, index 1 (R55). -/
def execLutSpecMinus (s : State) : Host.Outcome State Fault Refusal :=
  .next (s.lookupEntry .spec ⟨1, by decide⟩)

/-- `LUT.SPECIAL '_'`, code 0x5F, index 2 (R56). -/
def execLutSpecUnderscore (s : State) : Host.Outcome State Fault Refusal :=
  .next (s.lookupEntry .spec ⟨2, by decide⟩)

/-- `LUT.SPECIAL "'"`, code 0x27, index 3 (R57). -/
def execLutSpecApostrophe (s : State) : Host.Outcome State Fault Refusal :=
  .next (s.lookupEntry .spec ⟨3, by decide⟩)

/-- `LUT.SPECIAL '"'`, code 0x22, index 4 (R58). -/
def execLutSpecQuote (s : State) : Host.Outcome State Fault Refusal :=
  .next (s.lookupEntry .spec ⟨4, by decide⟩)

/-- `LUT.SPECIAL ' '`, code 0x20, index 5 (R59). -/
def execLutSpecSpace (s : State) : Host.Outcome State Fault Refusal :=
  .next (s.lookupEntry .spec ⟨5, by decide⟩)

/-- `LUT.NONE`, every other character `c` (R60): the all-off pattern, with no ROM read. The character is not an
error (R75) and its code changes nothing. -/
def execLutNone (_c : Byte) (s : State) : Host.Outcome State Fault Refusal :=
  .next (s.lookupBlank)

end Sys2Proof.Machine
end

