-- ==== Sys2Proof/Machine/LutUpper.lean ====
section
/-! DEFINITION. Uppercase letters 'A'..'Z': base(c) = RomRead(UPPER_ROM, c - 0x41) (R51). Each row reads its one entry and drives `seg_out` with it, merged
with the `dp_en` that stands on its port (log entry 1). No flag and no exception. -/

namespace Sys2Proof.Machine

/-- `LUT.UPPER 'A'`, code 0x41, index 0 (R51). -/
def execLutUpperA (s : State) : Host.Outcome State Fault Refusal :=
  .next (s.lookupEntry .upper ⟨0, by decide⟩)

/-- `LUT.UPPER 'B'`, code 0x42, index 1 (R51). -/
def execLutUpperB (s : State) : Host.Outcome State Fault Refusal :=
  .next (s.lookupEntry .upper ⟨1, by decide⟩)

/-- `LUT.UPPER 'C'`, code 0x43, index 2 (R51). -/
def execLutUpperC (s : State) : Host.Outcome State Fault Refusal :=
  .next (s.lookupEntry .upper ⟨2, by decide⟩)

/-- `LUT.UPPER 'D'`, code 0x44, index 3 (R51). -/
def execLutUpperD (s : State) : Host.Outcome State Fault Refusal :=
  .next (s.lookupEntry .upper ⟨3, by decide⟩)

/-- `LUT.UPPER 'E'`, code 0x45, index 4 (R51). -/
def execLutUpperE (s : State) : Host.Outcome State Fault Refusal :=
  .next (s.lookupEntry .upper ⟨4, by decide⟩)

/-- `LUT.UPPER 'F'`, code 0x46, index 5 (R51). -/
def execLutUpperF (s : State) : Host.Outcome State Fault Refusal :=
  .next (s.lookupEntry .upper ⟨5, by decide⟩)

/-- `LUT.UPPER 'G'`, code 0x47, index 6 (R51). -/
def execLutUpperG (s : State) : Host.Outcome State Fault Refusal :=
  .next (s.lookupEntry .upper ⟨6, by decide⟩)

/-- `LUT.UPPER 'H'`, code 0x48, index 7 (R51). -/
def execLutUpperH (s : State) : Host.Outcome State Fault Refusal :=
  .next (s.lookupEntry .upper ⟨7, by decide⟩)

/-- `LUT.UPPER 'I'`, code 0x49, index 8 (R51). -/
def execLutUpperI (s : State) : Host.Outcome State Fault Refusal :=
  .next (s.lookupEntry .upper ⟨8, by decide⟩)

/-- `LUT.UPPER 'J'`, code 0x4A, index 9 (R51). -/
def execLutUpperJ (s : State) : Host.Outcome State Fault Refusal :=
  .next (s.lookupEntry .upper ⟨9, by decide⟩)

/-- `LUT.UPPER 'K'`, code 0x4B, index 10 (R51). -/
def execLutUpperK (s : State) : Host.Outcome State Fault Refusal :=
  .next (s.lookupEntry .upper ⟨10, by decide⟩)

/-- `LUT.UPPER 'L'`, code 0x4C, index 11 (R51). -/
def execLutUpperL (s : State) : Host.Outcome State Fault Refusal :=
  .next (s.lookupEntry .upper ⟨11, by decide⟩)

/-- `LUT.UPPER 'M'`, code 0x4D, index 12 (R51). -/
def execLutUpperM (s : State) : Host.Outcome State Fault Refusal :=
  .next (s.lookupEntry .upper ⟨12, by decide⟩)

/-- `LUT.UPPER 'N'`, code 0x4E, index 13 (R51). -/
def execLutUpperN (s : State) : Host.Outcome State Fault Refusal :=
  .next (s.lookupEntry .upper ⟨13, by decide⟩)

/-- `LUT.UPPER 'O'`, code 0x4F, index 14 (R51). -/
def execLutUpperO (s : State) : Host.Outcome State Fault Refusal :=
  .next (s.lookupEntry .upper ⟨14, by decide⟩)

/-- `LUT.UPPER 'P'`, code 0x50, index 15 (R51). -/
def execLutUpperP (s : State) : Host.Outcome State Fault Refusal :=
  .next (s.lookupEntry .upper ⟨15, by decide⟩)

/-- `LUT.UPPER 'Q'`, code 0x51, index 16 (R51). -/
def execLutUpperQ (s : State) : Host.Outcome State Fault Refusal :=
  .next (s.lookupEntry .upper ⟨16, by decide⟩)

/-- `LUT.UPPER 'R'`, code 0x52, index 17 (R51). -/
def execLutUpperR (s : State) : Host.Outcome State Fault Refusal :=
  .next (s.lookupEntry .upper ⟨17, by decide⟩)

/-- `LUT.UPPER 'S'`, code 0x53, index 18 (R51). -/
def execLutUpperS (s : State) : Host.Outcome State Fault Refusal :=
  .next (s.lookupEntry .upper ⟨18, by decide⟩)

/-- `LUT.UPPER 'T'`, code 0x54, index 19 (R51). -/
def execLutUpperT (s : State) : Host.Outcome State Fault Refusal :=
  .next (s.lookupEntry .upper ⟨19, by decide⟩)

/-- `LUT.UPPER 'U'`, code 0x55, index 20 (R51). -/
def execLutUpperU (s : State) : Host.Outcome State Fault Refusal :=
  .next (s.lookupEntry .upper ⟨20, by decide⟩)

/-- `LUT.UPPER 'V'`, code 0x56, index 21 (R51). -/
def execLutUpperV (s : State) : Host.Outcome State Fault Refusal :=
  .next (s.lookupEntry .upper ⟨21, by decide⟩)

/-- `LUT.UPPER 'W'`, code 0x57, index 22 (R51). -/
def execLutUpperW (s : State) : Host.Outcome State Fault Refusal :=
  .next (s.lookupEntry .upper ⟨22, by decide⟩)

/-- `LUT.UPPER 'X'`, code 0x58, index 23 (R51). -/
def execLutUpperX (s : State) : Host.Outcome State Fault Refusal :=
  .next (s.lookupEntry .upper ⟨23, by decide⟩)

/-- `LUT.UPPER 'Y'`, code 0x59, index 24 (R51). -/
def execLutUpperY (s : State) : Host.Outcome State Fault Refusal :=
  .next (s.lookupEntry .upper ⟨24, by decide⟩)

/-- `LUT.UPPER 'Z'`, code 0x5A, index 25 (R51). -/
def execLutUpperZ (s : State) : Host.Outcome State Fault Refusal :=
  .next (s.lookupEntry .upper ⟨25, by decide⟩)

end Sys2Proof.Machine
end

