-- ==== Sys2Proof/Machine/Requests.lean ====
section
/-! DEFINITION. The four operations of SEG-LUT (41_operations.md). Each presents its request on the ports and answers
with the pattern. No flag and no exception, for any operand. -/

namespace Sys2Proof.Machine

/-- `ENC.CHAR` (R65): `c = ch_in`, `out <- dpmerge(base(c), 0)`. -/
def execEncChar (ch : Byte) (cp : CodePoint) (s : State) : Host.Outcome State Fault Refusal :=
  .next ((s.present false false ch cp).answer (dpMerge (base s.mem ch) false))

/-- `ENC.CHAR.DP` (R66): `c = ch_in`, `out <- dpmerge(base(c), 1)`. -/
def execEncCharDp (ch : Byte) (cp : CodePoint) (s : State) : Host.Outcome State Fault Refusal :=
  .next ((s.present false true ch cp).answer (dpMerge (base s.mem ch) true))

/-- `ENC.CP` (R67): `c = CP_TRUNC(cp_in)`, `out <- dpmerge(base(c), 0)`. -/
def execEncCp (ch : Byte) (cp : CodePoint) (s : State) : Host.Outcome State Fault Refusal :=
  .next ((s.present true false ch cp).answer (dpMerge (base s.mem (cpTrunc cp)) false))

/-- `ENC.CP.DP` (R68): `c = CP_TRUNC(cp_in)`, `out <- dpmerge(base(c), 1)`. -/
def execEncCpDp (ch : Byte) (cp : CodePoint) (s : State) : Host.Outcome State Fault Refusal :=
  .next ((s.present true true ch cp).answer (dpMerge (base s.mem (cpTrunc cp)) true))

end Sys2Proof.Machine
end

