-- ==== Sys2Proof/Machine/Dispatch.lean ====
section
/-! DEFINITION. One arm for each row of the opcode table. -/

namespace Sys2Proof.Machine

def exec (i : Instr) (s : State) : Host.Outcome State Fault Refusal :=
  match i with
  | .encChar ch cp => Sys2Proof.Machine.execEncChar ch cp s
  | .encCharDp ch cp => Sys2Proof.Machine.execEncCharDp ch cp s
  | .encCp ch cp => Sys2Proof.Machine.execEncCp ch cp s
  | .encCpDp ch cp => Sys2Proof.Machine.execEncCpDp ch cp s
  | .lutUpperA => Sys2Proof.Machine.execLutUpperA s
  | .lutUpperB => Sys2Proof.Machine.execLutUpperB s
  | .lutUpperC => Sys2Proof.Machine.execLutUpperC s
  | .lutUpperD => Sys2Proof.Machine.execLutUpperD s
  | .lutUpperE => Sys2Proof.Machine.execLutUpperE s
  | .lutUpperF => Sys2Proof.Machine.execLutUpperF s
  | .lutUpperG => Sys2Proof.Machine.execLutUpperG s
  | .lutUpperH => Sys2Proof.Machine.execLutUpperH s
  | .lutUpperI => Sys2Proof.Machine.execLutUpperI s
  | .lutUpperJ => Sys2Proof.Machine.execLutUpperJ s
  | .lutUpperK => Sys2Proof.Machine.execLutUpperK s
  | .lutUpperL => Sys2Proof.Machine.execLutUpperL s
  | .lutUpperM => Sys2Proof.Machine.execLutUpperM s
  | .lutUpperN => Sys2Proof.Machine.execLutUpperN s
  | .lutUpperO => Sys2Proof.Machine.execLutUpperO s
  | .lutUpperP => Sys2Proof.Machine.execLutUpperP s
  | .lutUpperQ => Sys2Proof.Machine.execLutUpperQ s
  | .lutUpperR => Sys2Proof.Machine.execLutUpperR s
  | .lutUpperS => Sys2Proof.Machine.execLutUpperS s
  | .lutUpperT => Sys2Proof.Machine.execLutUpperT s
  | .lutUpperU => Sys2Proof.Machine.execLutUpperU s
  | .lutUpperV => Sys2Proof.Machine.execLutUpperV s
  | .lutUpperW => Sys2Proof.Machine.execLutUpperW s
  | .lutUpperX => Sys2Proof.Machine.execLutUpperX s
  | .lutUpperY => Sys2Proof.Machine.execLutUpperY s
  | .lutUpperZ => Sys2Proof.Machine.execLutUpperZ s
  | .lutLowerA => Sys2Proof.Machine.execLutLowerA s
  | .lutLowerB => Sys2Proof.Machine.execLutLowerB s
  | .lutLowerC => Sys2Proof.Machine.execLutLowerC s
  | .lutLowerD => Sys2Proof.Machine.execLutLowerD s
  | .lutLowerE => Sys2Proof.Machine.execLutLowerE s
  | .lutLowerF => Sys2Proof.Machine.execLutLowerF s
  | .lutLowerG => Sys2Proof.Machine.execLutLowerG s
  | .lutLowerH => Sys2Proof.Machine.execLutLowerH s
  | .lutLowerI => Sys2Proof.Machine.execLutLowerI s
  | .lutLowerJ => Sys2Proof.Machine.execLutLowerJ s
  | .lutLowerK => Sys2Proof.Machine.execLutLowerK s
  | .lutLowerL => Sys2Proof.Machine.execLutLowerL s
  | .lutLowerM => Sys2Proof.Machine.execLutLowerM s
  | .lutLowerN => Sys2Proof.Machine.execLutLowerN s
  | .lutLowerO => Sys2Proof.Machine.execLutLowerO s
  | .lutLowerP => Sys2Proof.Machine.execLutLowerP s
  | .lutLowerQ => Sys2Proof.Machine.execLutLowerQ s
  | .lutLowerR => Sys2Proof.Machine.execLutLowerR s
  | .lutLowerS => Sys2Proof.Machine.execLutLowerS s
  | .lutLowerT => Sys2Proof.Machine.execLutLowerT s
  | .lutLowerU => Sys2Proof.Machine.execLutLowerU s
  | .lutLowerV => Sys2Proof.Machine.execLutLowerV s
  | .lutLowerW => Sys2Proof.Machine.execLutLowerW s
  | .lutLowerX => Sys2Proof.Machine.execLutLowerX s
  | .lutLowerY => Sys2Proof.Machine.execLutLowerY s
  | .lutLowerZ => Sys2Proof.Machine.execLutLowerZ s
  | .lutDigit0 => Sys2Proof.Machine.execLutDigit0 s
  | .lutDigit1 => Sys2Proof.Machine.execLutDigit1 s
  | .lutDigit2 => Sys2Proof.Machine.execLutDigit2 s
  | .lutDigit3 => Sys2Proof.Machine.execLutDigit3 s
  | .lutDigit4 => Sys2Proof.Machine.execLutDigit4 s
  | .lutDigit5 => Sys2Proof.Machine.execLutDigit5 s
  | .lutDigit6 => Sys2Proof.Machine.execLutDigit6 s
  | .lutDigit7 => Sys2Proof.Machine.execLutDigit7 s
  | .lutDigit8 => Sys2Proof.Machine.execLutDigit8 s
  | .lutDigit9 => Sys2Proof.Machine.execLutDigit9 s
  | .lutSpecEqual => Sys2Proof.Machine.execLutSpecEqual s
  | .lutSpecMinus => Sys2Proof.Machine.execLutSpecMinus s
  | .lutSpecUnderscore => Sys2Proof.Machine.execLutSpecUnderscore s
  | .lutSpecApostrophe => Sys2Proof.Machine.execLutSpecApostrophe s
  | .lutSpecQuote => Sys2Proof.Machine.execLutSpecQuote s
  | .lutSpecSpace => Sys2Proof.Machine.execLutSpecSpace s
  | .lutNone c => Sys2Proof.Machine.execLutNone c s

end Sys2Proof.Machine
end

