-- ==== Sys2Proof/WellFormed.lean ====
section
/-! DEFINITION. Which terms of `Instr` stand for a row of the opcode table. -/

namespace Sys2Proof

/-- The 68 codes that select a table entry: the three ranges and the six special codes of R42. -/
def tableCode (c : Byte) : Bool :=
  let n := c.toNat
  (0x41 ≤ n && n ≤ 0x5A) || (0x61 ≤ n && n ≤ 0x7A) || (0x30 ≤ n && n ≤ 0x39) ||
    n == 0x3D || n == 0x2D || n == 0x5F || n == 0x27 || n == 0x22 || n == 0x20

/-- Well-formedness. A request is well formed whatever its operands (R44). A `CHAR` row has no operand. The default
row stands for the 188 codes that no other row matches (R42, R60), so its code may not be one of the 68. -/
def Instr.wf : Instr → Bool
  | .encChar _ _ => true
  | .encCharDp _ _ => true
  | .encCp _ _ => true
  | .encCpDp _ _ => true
  | .lutUpperA => true
  | .lutUpperB => true
  | .lutUpperC => true
  | .lutUpperD => true
  | .lutUpperE => true
  | .lutUpperF => true
  | .lutUpperG => true
  | .lutUpperH => true
  | .lutUpperI => true
  | .lutUpperJ => true
  | .lutUpperK => true
  | .lutUpperL => true
  | .lutUpperM => true
  | .lutUpperN => true
  | .lutUpperO => true
  | .lutUpperP => true
  | .lutUpperQ => true
  | .lutUpperR => true
  | .lutUpperS => true
  | .lutUpperT => true
  | .lutUpperU => true
  | .lutUpperV => true
  | .lutUpperW => true
  | .lutUpperX => true
  | .lutUpperY => true
  | .lutUpperZ => true
  | .lutLowerA => true
  | .lutLowerB => true
  | .lutLowerC => true
  | .lutLowerD => true
  | .lutLowerE => true
  | .lutLowerF => true
  | .lutLowerG => true
  | .lutLowerH => true
  | .lutLowerI => true
  | .lutLowerJ => true
  | .lutLowerK => true
  | .lutLowerL => true
  | .lutLowerM => true
  | .lutLowerN => true
  | .lutLowerO => true
  | .lutLowerP => true
  | .lutLowerQ => true
  | .lutLowerR => true
  | .lutLowerS => true
  | .lutLowerT => true
  | .lutLowerU => true
  | .lutLowerV => true
  | .lutLowerW => true
  | .lutLowerX => true
  | .lutLowerY => true
  | .lutLowerZ => true
  | .lutDigit0 => true
  | .lutDigit1 => true
  | .lutDigit2 => true
  | .lutDigit3 => true
  | .lutDigit4 => true
  | .lutDigit5 => true
  | .lutDigit6 => true
  | .lutDigit7 => true
  | .lutDigit8 => true
  | .lutDigit9 => true
  | .lutSpecEqual => true
  | .lutSpecMinus => true
  | .lutSpecUnderscore => true
  | .lutSpecApostrophe => true
  | .lutSpecQuote => true
  | .lutSpecSpace => true
  | .lutNone c => !tableCode c

end Sys2Proof
end

