-- ==== Sys2Proof/Decode.lean ====
section
/-! DEFINITION. The two decoders of SEG-LUT and the encoder. The request decoder reads `op` (R40). The character
decoder is the list of `CHAR` rows, each a match and a mask (R42 and the head of 30_encoding.md). Neither rejects
anything: no encoding is illegal or reserved (R44). -/

namespace Sys2Proof

/-- One `CHAR` row of the opcode table: it matches `c` when `c &&& mask = pat`. -/
structure CharRow where
  pat   : Byte
  mask  : Byte
  instr : Instr
  deriving DecidableEq, Repr

def CharRow.matchesCode (r : CharRow) (c : Byte) : Bool := (c &&& r.mask) == r.pat

/-- The rows of 'A'..'Z' (R51). -/
def upperRows : List CharRow := [
  ⟨0x41#8, 0xFF#8, .lutUpperA⟩,
  ⟨0x42#8, 0xFF#8, .lutUpperB⟩,
  ⟨0x43#8, 0xFF#8, .lutUpperC⟩,
  ⟨0x44#8, 0xFF#8, .lutUpperD⟩,
  ⟨0x45#8, 0xFF#8, .lutUpperE⟩,
  ⟨0x46#8, 0xFF#8, .lutUpperF⟩,
  ⟨0x47#8, 0xFF#8, .lutUpperG⟩,
  ⟨0x48#8, 0xFF#8, .lutUpperH⟩,
  ⟨0x49#8, 0xFF#8, .lutUpperI⟩,
  ⟨0x4A#8, 0xFF#8, .lutUpperJ⟩,
  ⟨0x4B#8, 0xFF#8, .lutUpperK⟩,
  ⟨0x4C#8, 0xFF#8, .lutUpperL⟩,
  ⟨0x4D#8, 0xFF#8, .lutUpperM⟩,
  ⟨0x4E#8, 0xFF#8, .lutUpperN⟩,
  ⟨0x4F#8, 0xFF#8, .lutUpperO⟩,
  ⟨0x50#8, 0xFF#8, .lutUpperP⟩,
  ⟨0x51#8, 0xFF#8, .lutUpperQ⟩,
  ⟨0x52#8, 0xFF#8, .lutUpperR⟩,
  ⟨0x53#8, 0xFF#8, .lutUpperS⟩,
  ⟨0x54#8, 0xFF#8, .lutUpperT⟩,
  ⟨0x55#8, 0xFF#8, .lutUpperU⟩,
  ⟨0x56#8, 0xFF#8, .lutUpperV⟩,
  ⟨0x57#8, 0xFF#8, .lutUpperW⟩,
  ⟨0x58#8, 0xFF#8, .lutUpperX⟩,
  ⟨0x59#8, 0xFF#8, .lutUpperY⟩,
  ⟨0x5A#8, 0xFF#8, .lutUpperZ⟩
]

/-- The rows of 'a'..'z' (R52). -/
def lowerRows : List CharRow := [
  ⟨0x61#8, 0xFF#8, .lutLowerA⟩,
  ⟨0x62#8, 0xFF#8, .lutLowerB⟩,
  ⟨0x63#8, 0xFF#8, .lutLowerC⟩,
  ⟨0x64#8, 0xFF#8, .lutLowerD⟩,
  ⟨0x65#8, 0xFF#8, .lutLowerE⟩,
  ⟨0x66#8, 0xFF#8, .lutLowerF⟩,
  ⟨0x67#8, 0xFF#8, .lutLowerG⟩,
  ⟨0x68#8, 0xFF#8, .lutLowerH⟩,
  ⟨0x69#8, 0xFF#8, .lutLowerI⟩,
  ⟨0x6A#8, 0xFF#8, .lutLowerJ⟩,
  ⟨0x6B#8, 0xFF#8, .lutLowerK⟩,
  ⟨0x6C#8, 0xFF#8, .lutLowerL⟩,
  ⟨0x6D#8, 0xFF#8, .lutLowerM⟩,
  ⟨0x6E#8, 0xFF#8, .lutLowerN⟩,
  ⟨0x6F#8, 0xFF#8, .lutLowerO⟩,
  ⟨0x70#8, 0xFF#8, .lutLowerP⟩,
  ⟨0x71#8, 0xFF#8, .lutLowerQ⟩,
  ⟨0x72#8, 0xFF#8, .lutLowerR⟩,
  ⟨0x73#8, 0xFF#8, .lutLowerS⟩,
  ⟨0x74#8, 0xFF#8, .lutLowerT⟩,
  ⟨0x75#8, 0xFF#8, .lutLowerU⟩,
  ⟨0x76#8, 0xFF#8, .lutLowerV⟩,
  ⟨0x77#8, 0xFF#8, .lutLowerW⟩,
  ⟨0x78#8, 0xFF#8, .lutLowerX⟩,
  ⟨0x79#8, 0xFF#8, .lutLowerY⟩,
  ⟨0x7A#8, 0xFF#8, .lutLowerZ⟩
]

/-- The rows of '0'..'9' (R53). -/
def digitRows : List CharRow := [
  ⟨0x30#8, 0xFF#8, .lutDigit0⟩,
  ⟨0x31#8, 0xFF#8, .lutDigit1⟩,
  ⟨0x32#8, 0xFF#8, .lutDigit2⟩,
  ⟨0x33#8, 0xFF#8, .lutDigit3⟩,
  ⟨0x34#8, 0xFF#8, .lutDigit4⟩,
  ⟨0x35#8, 0xFF#8, .lutDigit5⟩,
  ⟨0x36#8, 0xFF#8, .lutDigit6⟩,
  ⟨0x37#8, 0xFF#8, .lutDigit7⟩,
  ⟨0x38#8, 0xFF#8, .lutDigit8⟩,
  ⟨0x39#8, 0xFF#8, .lutDigit9⟩
]

/-- The rows of the special characters (R54 to R59). -/
def specialRows : List CharRow := [
  ⟨0x3D#8, 0xFF#8, .lutSpecEqual⟩,
  ⟨0x2D#8, 0xFF#8, .lutSpecMinus⟩,
  ⟨0x5F#8, 0xFF#8, .lutSpecUnderscore⟩,
  ⟨0x27#8, 0xFF#8, .lutSpecApostrophe⟩,
  ⟨0x22#8, 0xFF#8, .lutSpecQuote⟩,
  ⟨0x20#8, 0xFF#8, .lutSpecSpace⟩
]

/-- The 68 rows of mask 0xFF. -/
def charRows : List CharRow := upperRows ++ lowerRows ++ digitRows ++ specialRows

/-- The character decoder: the row of mask 0xFF that matches, else the default row of mask 0x00 (R42, R60). -/
def decodeChar (c : Byte) : Instr :=
  match charRows.find? (fun r => r.matchesCode c) with
  | some r => r.instr
  | none => .lutNone c

/-- The request decoder: `op[1]` selects the operand and `op[0]` is the decimal-point flag (R39, R40). -/
def decodeReq (r : ReqWord) : Instr :=
  match r.op.getLsbD 1, r.op.getLsbD 0 with
  | false, false => .encChar r.ch r.cp
  | false, true => .encCharDp r.ch r.cp
  | true, false => .encCp r.ch r.cp
  | true, true => .encCpDp r.ch r.cp

/-- Decoding of either format. -/
def decode : TableWord → Instr
  | .req r => decodeReq r
  | .char c => decodeChar c

/-- The words of an instruction, from R40 for the requests and from R42 for the `CHAR` rows. -/
def encode : Instr → TableWord
  | .encChar ch cp => .req ⟨0b00#2, ch, cp⟩
  | .encCharDp ch cp => .req ⟨0b01#2, ch, cp⟩
  | .encCp ch cp => .req ⟨0b10#2, ch, cp⟩
  | .encCpDp ch cp => .req ⟨0b11#2, ch, cp⟩
  | .lutUpperA => .char 0x41#8
  | .lutUpperB => .char 0x42#8
  | .lutUpperC => .char 0x43#8
  | .lutUpperD => .char 0x44#8
  | .lutUpperE => .char 0x45#8
  | .lutUpperF => .char 0x46#8
  | .lutUpperG => .char 0x47#8
  | .lutUpperH => .char 0x48#8
  | .lutUpperI => .char 0x49#8
  | .lutUpperJ => .char 0x4A#8
  | .lutUpperK => .char 0x4B#8
  | .lutUpperL => .char 0x4C#8
  | .lutUpperM => .char 0x4D#8
  | .lutUpperN => .char 0x4E#8
  | .lutUpperO => .char 0x4F#8
  | .lutUpperP => .char 0x50#8
  | .lutUpperQ => .char 0x51#8
  | .lutUpperR => .char 0x52#8
  | .lutUpperS => .char 0x53#8
  | .lutUpperT => .char 0x54#8
  | .lutUpperU => .char 0x55#8
  | .lutUpperV => .char 0x56#8
  | .lutUpperW => .char 0x57#8
  | .lutUpperX => .char 0x58#8
  | .lutUpperY => .char 0x59#8
  | .lutUpperZ => .char 0x5A#8
  | .lutLowerA => .char 0x61#8
  | .lutLowerB => .char 0x62#8
  | .lutLowerC => .char 0x63#8
  | .lutLowerD => .char 0x64#8
  | .lutLowerE => .char 0x65#8
  | .lutLowerF => .char 0x66#8
  | .lutLowerG => .char 0x67#8
  | .lutLowerH => .char 0x68#8
  | .lutLowerI => .char 0x69#8
  | .lutLowerJ => .char 0x6A#8
  | .lutLowerK => .char 0x6B#8
  | .lutLowerL => .char 0x6C#8
  | .lutLowerM => .char 0x6D#8
  | .lutLowerN => .char 0x6E#8
  | .lutLowerO => .char 0x6F#8
  | .lutLowerP => .char 0x70#8
  | .lutLowerQ => .char 0x71#8
  | .lutLowerR => .char 0x72#8
  | .lutLowerS => .char 0x73#8
  | .lutLowerT => .char 0x74#8
  | .lutLowerU => .char 0x75#8
  | .lutLowerV => .char 0x76#8
  | .lutLowerW => .char 0x77#8
  | .lutLowerX => .char 0x78#8
  | .lutLowerY => .char 0x79#8
  | .lutLowerZ => .char 0x7A#8
  | .lutDigit0 => .char 0x30#8
  | .lutDigit1 => .char 0x31#8
  | .lutDigit2 => .char 0x32#8
  | .lutDigit3 => .char 0x33#8
  | .lutDigit4 => .char 0x34#8
  | .lutDigit5 => .char 0x35#8
  | .lutDigit6 => .char 0x36#8
  | .lutDigit7 => .char 0x37#8
  | .lutDigit8 => .char 0x38#8
  | .lutDigit9 => .char 0x39#8
  | .lutSpecEqual => .char 0x3D#8
  | .lutSpecMinus => .char 0x2D#8
  | .lutSpecUnderscore => .char 0x5F#8
  | .lutSpecApostrophe => .char 0x27#8
  | .lutSpecQuote => .char 0x22#8
  | .lutSpecSpace => .char 0x20#8
  | .lutNone c => .char c

/-- DESIGN CHOICE (log entry 12). How a number of opcode-table bits is read as a word of one of the two formats,
which the table numbers from the same bit 0: two bits or more whose value is below 4 are `op[1:0]` of a request with
zero operands, everything else is a character in bits 7..0. The reader's `index` fields above bit 7 are no bits of
the encoding (log entry 13). -/
def tableWord (nbits w : Nat) : TableWord :=
  if 2 ≤ nbits ∧ w < 4 then .req ⟨BitVec.ofNat 2 w, 0#8, 0#_⟩ else .char (BitVec.ofNat 8 w)

/-- The instruction the decoder reads from the table bits `w`. -/
def decodeTableWord (nbits w : Nat) : Option Instr := some (decode (tableWord nbits w))

end Sys2Proof
end

