-- ==== Sys2Proof/Machine/Fetch.lean ====
section
/-! DEFINITION. What a step runs next. SEG-LUT fetches nothing (R14): the requester presents its requests in order
(R92), and while no new one comes the inputs stand and the block looks their effective character up (log entries 1
and 2). -/

namespace Sys2Proof.Machine

/-- The word the next step decodes, and the state it is taken from: the requester's next request, which leaves the
list, or else the effective character of the request standing on the ports (R41, R42). -/
def fetch (s : State) : TableWord × State :=
  match s.program with
  | r :: rest => (.req r, { s with program := rest })
  | [] => (.char s.effective, s)

/-- The state in which `fetch` gives a word. A request is put at the head of the requester's list. A character is
put on `ch_in` and selected, with no request waiting, so that it is the effective character. -/
def placeWord (w : TableWord) (s : State) : State :=
  match w with
  | .req r => { s with program := r :: s.program }
  | .char c => { s with program := [], srcSel := false, chIn := c }

end Sys2Proof.Machine
end

