-- ==== Sys2Proof/Machine/Step.lean ====
section
/-! DEFINITION. One step: the next word is fetched, decoded and run (R12: one request is one atomic step). -/

namespace Sys2Proof.Machine

/-- One step. -/
def step (s : State) : Host.Outcome State Fault Refusal := exec (decode (fetch s).1) (fetch s).2

/-- `s` with an opcode-table word placed where the next step takes it (log entries 2 and 12). -/
def State.withFetchWord (s : State) (nbits w : Nat) : State := placeWord (tableWord nbits w) s

end Sys2Proof.Machine
end

