-- ==== Sys2Proof/Machine/Assembler.lean ====
section
/-! DEFINITION. The assembler text of requests (R47, the spec's decision D8; what R47 leaves open is in log entry
20). -/

namespace Sys2Proof.Machine

/-- Why a line is no request. -/
inductive AsmError where
  | unknownMnemonic | badOperand | operandTooWide | trailingText
  deriving DecidableEq, Repr

/-- White space between the parts of a line. -/
def asmBlank (c : Char) : Bool := c == ' ' || c == '\t'

/-- A character that ends a word: white space, or `;`, which starts a comment. -/
def asmEndsWord (c : Char) : Bool := asmBlank c || c == ';'

/-- Nothing but white space and a comment is left. -/
def asmAtEnd (cs : List Char) : Bool :=
  match cs.dropWhile asmBlank with
  | [] => true
  | c :: _ => c == ';'

/-- The four mnemonics and the `op` each stands for (R47), in lower case. -/
def asmMnemonics : List (List Char × BitVec 2) := [
  (['e', 'n', 'c', '.', 'c', 'h', 'a', 'r'], 0b00#2),
  (['e', 'n', 'c', '.', 'c', 'h', 'a', 'r', '.', 'd', 'p'], 0b01#2),
  (['e', 'n', 'c', '.', 'c', 'p'], 0b10#2),
  (['e', 'n', 'c', '.', 'c', 'p', '.', 'd', 'p'], 0b11#2)]

/-- Mnemonics are case-insensitive (R47). -/
def asmOp (word : List Char) : Option (BitVec 2) := asmMnemonics.lookup (word.map Char.toLower)

/-- The value of a digit of a number of the given radix, 10 or 16. -/
def asmDigit (radix : Nat) (c : Char) : Option Nat :=
  let n := c.toNat
  if 0x30 ≤ n ∧ n ≤ 0x39 then some (n - 0x30)
  else if radix = 16 ∧ 0x41 ≤ n ∧ n ≤ 0x46 then some (n - 0x41 + 10)
  else if radix = 16 ∧ 0x61 ≤ n ∧ n ≤ 0x66 then some (n - 0x61 + 10)
  else none

/-- The value of a string of digits, after those already read. -/
def asmDigits (radix : Nat) : Nat → List Char → Option Nat
  | acc, [] => some acc
  | acc, c :: cs =>
    match asmDigit radix c with
    | some d => asmDigits radix (acc * radix + d) cs
    | none => none

/-- A number in hexadecimal, after `0x`, or in decimal (R47). -/
def asmNat (word : List Char) : Option Nat :=
  match word with
  | [] => none
  | '0' :: 'x' :: [] => none
  | '0' :: 'x' :: cs => asmDigits 16 0 cs
  | cs => asmDigits 10 0 cs

/-- A character literal in single quotes, `'\''` for the apostrophe (R47), and the text after it. -/
def asmCharLiteral (cs : List Char) : Option (Byte × List Char) :=
  match cs with
  | '\'' :: '\\' :: c :: '\'' :: rest =>
    if c = '\'' ∨ c = '\\' then some (BitVec.ofNat 8 c.toNat, rest) else none
  | '\'' :: c :: '\'' :: rest =>
    if c ≠ '\'' ∧ c ≠ '\\' ∧ c.toNat < 128 then some (BitVec.ofNat 8 c.toNat, rest) else none
  | _ => none

/-- The operand `<c>` of `enc.char` and `enc.char.dp`: a character literal or an 8-bit number (R47). -/
def asmCharOperand (cs : List Char) : Except AsmError (Byte × List Char) :=
  match cs.head? with
  | some '\'' =>
    match asmCharLiteral cs with
    | some r => .ok r
    | none => .error .badOperand
  | _ =>
    match asmNat (cs.takeWhile (fun c => !asmEndsWord c)) with
    | none => .error .badOperand
    | some n =>
      if n < 256 then .ok (BitVec.ofNat 8 n, cs.dropWhile (fun c => !asmEndsWord c))
      else .error .operandTooWide

/-- The operand `<n>` of `enc.cp` and `enc.cp.dp`: a number that fits in `CP_WIDTH` bits. A negative decimal stands
for its two's-complement pattern (R47). -/
def asmCodePointOperand (cs : List Char) : Except AsmError (CodePoint × List Char) :=
  let rest := cs.dropWhile (fun c => !asmEndsWord c)
  match cs.takeWhile (fun c => !asmEndsWord c) with
  | '-' :: ds =>
    match ds with
    | [] => .error .badOperand
    | _ =>
      match asmDigits 10 0 ds with
      | none => .error .badOperand
      | some n =>
        if n ≤ 2 ^ (Config.cpWidth - 1) then .ok (-(BitVec.ofNat Config.cpWidth n), rest)
        else .error .operandTooWide
  | word =>
    match asmNat word with
    | none => .error .badOperand
    | some n =>
      if n < 2 ^ Config.cpWidth then .ok (BitVec.ofNat Config.cpWidth n, rest) else .error .operandTooWide

/-- One line of text: no request where the line is blank or a comment, else one request. The operand that is not
selected is not written, so its port keeps `chStands` or `cpStands` (R39, R25; log entry 21). -/
def asmLine (chStands : Byte) (cpStands : CodePoint) (line : List Char) : Except AsmError (Option ReqWord) :=
  let text := line.dropWhile asmBlank
  if asmAtEnd text then .ok none
  else
    let operand := (text.dropWhile (fun c => !asmEndsWord c)).dropWhile asmBlank
    match asmOp (text.takeWhile (fun c => !asmEndsWord c)) with
    | none => .error .unknownMnemonic
    | some op =>
      if op.getLsbD 1 then
        match asmCodePointOperand operand with
        | .error e => .error e
        | .ok (n, rest) => if asmAtEnd rest then .ok (some ⟨op, chStands, n⟩) else .error .trailingText
      else
        match asmCharOperand operand with
        | .error e => .error e
        | .ok (c, rest) => if asmAtEnd rest then .ok (some ⟨op, c, cpStands⟩) else .error .trailingText

/-- A text, line by line: the requests it stands for, in order, or the first error. -/
def asmProgram (chStands : Byte) (cpStands : CodePoint) : List (List Char) → Except AsmError (List ReqWord)
  | [] => .ok []
  | line :: lines =>
    match asmLine chStands cpStands line with
    | .error e => .error e
    | .ok none => asmProgram chStands cpStands lines
    | .ok (some r) =>
      match asmProgram chStands cpStands lines with
      | .error e => .error e
      | .ok rs => .ok (r :: rs)

end Sys2Proof.Machine
end

