-- ==== Sys2Proof/Machine/Segments.lean ====
section
/-! DEFINITION. What the bits of a segment pattern mean (R10, R23). -/

namespace Sys2Proof.Machine

/-- The eight segments of a display digit, DP among them. -/
inductive Segment where
  | a | b | c | d | e | f | g | dp
  deriving DecidableEq, Repr

/-- Which bit of the pattern drives a segment: `DP g f e d c b a` from bit 7 to bit 0 (R10, R23). -/
def Segment.bit : Segment → Nat
  | .a => 0
  | .b => 1
  | .c => 2
  | .d => 3
  | .e => 4
  | .f => 5
  | .g => 6
  | .dp => 7

/-- A 1 lights the segment (R10, R23). -/
def segmentLit (v : Byte) (x : Segment) : Bool := v.getLsbD x.bit

/-- The places of the segments on a digit. -/
inductive SegmentPlace where
  | top | upperRight | lowerRight | bottom | lowerLeft | upperLeft | middle | decimalPoint
  deriving DecidableEq, Repr

/-- PRESUMED (the spec's general knowledge, R10; log entry 25): where each segment sits. No rule depends on it. -/
def Segment.place : Segment → SegmentPlace
  | .a => .top
  | .b => .upperRight
  | .c => .lowerRight
  | .d => .bottom
  | .e => .lowerLeft
  | .f => .upperLeft
  | .g => .middle
  | .dp => .decimalPoint

end Sys2Proof.Machine
end

