-- ==== Sys2Proof/Machine/SourceCalls.lean ====
section
/-! DEFINITION. The pseudo-instructions: the source's call forms and the request each expands to (R48). -/

namespace Sys2Proof.Machine

/-- The source's call forms. The flag is absent in the one-argument forms. The three `updateDigit` forms belong to
the Digit Updater, outside the block (R4): only the request they expand to is SEG-LUT's. -/
inductive SourceCall where
  | patternFromCharacter (c : Byte) (dp : Option Bool)
  | patternFromCodePoint (n : CodePoint) (dp : Option Bool)
  | updateDigitCharacter (digitIndex : Byte) (c : Byte) (dp : Option Bool)
  | updateDigitCodePoint (digitIndex : Byte) (n : CodePoint) (dp : Option Bool)
  | updateDigitWithByte (digitIndex : Byte) (b : Byte)
  deriving DecidableEq, Repr

/-- An omitted decimal-point flag is disabled (R22). -/
def dpFlag (dp : Option Bool) : Bool := dp.getD false

/-- `op` of a request: `op[1] = src_sel`, `op[0] = dp_en` (R39). -/
def callOp (srcSel dpEn : Bool) : BitVec 2 := BitVec.ofBool srcSel ++ BitVec.ofBool dpEn

/-- The request a call expands to, if it makes one (R48). A call gives its own operand only. The port it does not
select keeps whatever stands on it, `chStands` or `cpStands` (R25; log entry 21). -/
def expandCall (chStands : Byte) (cpStands : CodePoint) : SourceCall → Option ReqWord
  | .patternFromCharacter c dp => some ⟨callOp false (dpFlag dp), c, cpStands⟩
  | .patternFromCodePoint n dp => some ⟨callOp true (dpFlag dp), chStands, n⟩
  | .updateDigitCharacter _ c dp => some ⟨callOp false (dpFlag dp), c, cpStands⟩
  | .updateDigitCodePoint _ n dp => some ⟨callOp true (dpFlag dp), chStands, n⟩
  | .updateDigitWithByte _ _ => none

/-- The frame the Digit Updater makes of an output: byte 1 is the output, unchanged (R5). -/
def frameOf (digitIndex segOut : Byte) : List Byte := [digitIndex, segOut]

end Sys2Proof.Machine
end

