-- ==== Sys2Proof/Safety.lean ====
section
/-! DEFINITION. What counts as a good state and a safe run. -/

namespace Sys2Proof.Safety

open Sys2Proof.Machine

/-- A good state: the ROM is in canonical form, its contents pass the configuration check (R6, R30), and `seg_out`
is `encode` of the request standing on the ports (R26, R73). -/
def Inv (s : State) : Prop :=
  s.mem.wf = true ∧ s.mem.admitted = true ∧ s.segOut = requestOutput s.mem s.portRequest

/-- A safe run of `k` steps: it ends in a next state, with no fault and no refusal on the way (R74, R93). -/
def SafeRun (k : Nat) (s : State) : Prop := ∃ t : State, Host.Core.run Sys2Proof.core k s = .next t

end Sys2Proof.Safety
end

