-- ==== Sys2Proof/Certificates/Slice0/Obligations.lean ====
section
/-! DEFINITION. The statements for the provers, and the few names they use. -/

open Sys2Proof Sys2Proof.Machine

namespace Sys2Proof.Claims

/-- The LUT.UPPER rows, in the order of the table. -/
def upperInstrs : List Instr := [
  .lutUpperA, .lutUpperB, .lutUpperC, .lutUpperD, .lutUpperE, .lutUpperF, .lutUpperG,
  .lutUpperH, .lutUpperI, .lutUpperJ, .lutUpperK, .lutUpperL, .lutUpperM, .lutUpperN,
  .lutUpperO, .lutUpperP, .lutUpperQ, .lutUpperR, .lutUpperS, .lutUpperT, .lutUpperU,
  .lutUpperV, .lutUpperW, .lutUpperX, .lutUpperY, .lutUpperZ]

/-- The LUT.LOWER rows, in the order of the table. -/
def lowerInstrs : List Instr := [
  .lutLowerA, .lutLowerB, .lutLowerC, .lutLowerD, .lutLowerE, .lutLowerF, .lutLowerG,
  .lutLowerH, .lutLowerI, .lutLowerJ, .lutLowerK, .lutLowerL, .lutLowerM, .lutLowerN,
  .lutLowerO, .lutLowerP, .lutLowerQ, .lutLowerR, .lutLowerS, .lutLowerT, .lutLowerU,
  .lutLowerV, .lutLowerW, .lutLowerX, .lutLowerY, .lutLowerZ]

/-- The LUT.DIGIT rows, in the order of the table. -/
def digitInstrs : List Instr := [
  .lutDigit0, .lutDigit1, .lutDigit2, .lutDigit3, .lutDigit4, .lutDigit5, .lutDigit6,
  .lutDigit7, .lutDigit8, .lutDigit9]

/-- The LUT.SPECIAL rows, in the order of R29. -/
def specialInstrs : List Instr := [
  .lutSpecEqual, .lutSpecMinus, .lutSpecUnderscore, .lutSpecApostrophe, .lutSpecQuote, .lutSpecSpace]

/-- The codes of the six special characters, in the order of R29. -/
def specialCodes : List Byte := [0x3D#8, 0x2D#8, 0x5F#8, 0x27#8, 0x22#8, 0x20#8]

/-- The neighbours the rules of the special characters name (R54 to R59). -/
def specialNeighbours : List Byte :=
  [0x3C#8, 0x3E#8, 0x2C#8, 0x2E#8, 0x5E#8, 0x60#8, 0x26#8, 0x28#8, 0x21#8, 0x23#8, 0x1F#8]

/-- How many of the 256 codes fall in a class (R42). -/
def codesOf (k : CharClass) : Nat :=
  ((List.range 256).filter (fun n => classify (BitVec.ofNat 8 n) == k)).length

/-- The four class tests, each on its own (R49, R50). -/
def classTests : List (CharClass × (Byte → Bool)) := [
  (.upper, fun c => decide (0x41 ≤ c.toNat ∧ c.toNat ≤ 0x5A)),
  (.lower, fun c => decide (0x61 ≤ c.toNat ∧ c.toNat ≤ 0x7A)),
  (.digit, fun c => decide (0x30 ≤ c.toNat ∧ c.toNat ≤ 0x39)),
  (.special, fun c => specialCodes.contains c)]

/-- The class of the first test that passes, else NONE. -/
def firstClass (tests : List (CharClass × (Byte → Bool))) (c : Byte) : CharClass :=
  match tests.find? (fun x => x.2 c) with
  | some x => x.1
  | none => .none

/-- The classifier on a signed character type (R63). -/
def classifySigned (c : Byte) : CharClass :=
  if 0x41 ≤ c.toInt ∧ c.toInt ≤ 0x5A then .upper
  else if 0x61 ≤ c.toInt ∧ c.toInt ≤ 0x7A then .lower
  else if 0x30 ≤ c.toInt ∧ c.toInt ≤ 0x39 then .digit
  else if c.toInt ∈ [0x3D, 0x2D, 0x5F, 0x27, 0x22, 0x20] then .special
  else .none

/-- An instruction of format `CHAR`: all but the four requests. -/
def isRow : Instr → Bool
  | .encChar _ _ => false
  | .encCharDp _ _ => false
  | .encCp _ _ => false
  | .encCpDp _ _ => false
  | _ => true

/-- White space of a line of text (log entry 20). -/
def blankText (t : List Char) : Prop := ∀ c ∈ t, c = ' ' ∨ c = '\t'

/-- What may follow an operand: white space, and then a comment or nothing (R47). -/
def endsLine (t : List Char) : Prop := ∃ b : List Char, blankText b ∧ (t = b ∨ ∃ k : List Char, t = b ++ ';' :: k)

/-- A spelling of a mnemonic in any mixture of cases, and its `op` (R47). -/
def writesMnemonic (word : List Char) (op : BitVec 2) : Prop :=
  (word.map Char.toLower, op) ∈
    [("enc.char".toList, 0b00#2), ("enc.char.dp".toList, 0b01#2), ("enc.cp".toList, 0b10#2),
      ("enc.cp.dp".toList, 0b11#2)]

/-- The number that digits stand for, the first digit the highest. -/
def numberOf (radix : Nat) (ds : List Nat) : Nat := ds.foldl (fun n d => n * radix + d) 0

/-- The character of a digit: 0 to 9, then the letters from `A` or from `a`. -/
def digitChar (capital : Bool) (d : Nat) : Char :=
  Char.ofNat (if d < 10 then 0x30 + d else if capital then 0x41 + (d - 10) else 0x61 + (d - 10))

/-- A decimal text of `n`: one digit or more. -/
def writesDecimal (text : List Char) (n : Nat) : Prop :=
  ∃ ds : List (Fin 10), ds ≠ [] ∧ text = ds.map (fun d => digitChar false d.val) ∧
    n = numberOf 10 (ds.map Fin.val)

/-- A hexadecimal text of `n`: `0x` and one digit or more, each letter in either case. -/
def writesHex (text : List Char) (n : Nat) : Prop :=
  ∃ ds : List (Bool × Fin 16), ds ≠ [] ∧ text = '0' :: 'x' :: ds.map (fun d => digitChar d.1 d.2.val) ∧
    n = numberOf 16 (ds.map fun d => d.2.val)

/-- A line of text: white space, a mnemonic, white space, an operand and the end of the line (R47). -/
def lineOf (lead word gap operand tail : List Char) : List Char := lead ++ (word ++ (gap ++ (operand ++ tail)))

theorem upper_0 : 0 < RomTable.upper.size := by decide
theorem upper_25 : 25 < RomTable.upper.size := by decide
theorem lower_0 : 0 < RomTable.lower.size := by decide
theorem lower_25 : 25 < RomTable.lower.size := by decide
theorem digit_0 : 0 < RomTable.digit.size := by decide
theorem digit_8 : 8 < RomTable.digit.size := by decide
theorem digit_9 : 9 < RomTable.digit.size := by decide
theorem spec_5 : 5 < RomTable.spec.size := by decide

end Sys2Proof.Claims

/-- The four values of op select the four operations (the spec marks the numbering as its decision D7). (Derived from
30_encoding.md section 2, 92_eei_decisions.md D7.) -/
def Obligations.OpSelectsTheOperation : Prop :=
  ∀ (ch : Byte) (cp : CodePoint),
    decodeReq ⟨0b00#2, ch, cp⟩ = .encChar ch cp ∧ decodeReq ⟨0b01#2, ch, cp⟩ = .encCharDp ch cp ∧
    decodeReq ⟨0b10#2, ch, cp⟩ = .encCp ch cp ∧ decodeReq ⟨0b11#2, ch, cp⟩ = .encCpDp ch cp

/-- Words written out bit by bit decode to their rows, one of each family. (Derived from 30_encoding.md section 2,
30_encoding.md section 4, opcode_table.json.) -/
def Obligations.WrittenOutWordsDecode : Prop :=
  ∀ (ch : Byte) (cp : CodePoint),
    decode (.req ⟨0b00#2, ch, cp⟩) = .encChar ch cp ∧ decode (.req ⟨0b11#2, ch, cp⟩) = .encCpDp ch cp ∧
    decode (.char 0b01000001#8) = .lutUpperA ∧ decode (.char 0b01111010#8) = .lutLowerZ ∧
    decode (.char 0b00111000#8) = .lutDigit8 ∧ decode (.char 0b00100000#8) = .lutSpecSpace ∧
    decode (.char 0b11000001#8) = .lutNone 0b11000001#8

/-- Decode and encode agree for every well-formed instruction. (Derived from 30_encoding.md section 2, 30_encoding.md
section 4.) -/
def Obligations.DecodeOfEncodeIsTheInstruction : Prop :=
  ∀ i : Instr, i.wf = true → decode (encode i) = i

/-- Every word decodes to a well-formed instruction whose words it is. (Derived from 30_encoding.md section 5,
30_encoding.md section 4.) -/
def Obligations.EveryWordHasOneWellFormedMeaning : Prop :=
  ∀ w : TableWord, (decode w).wf = true ∧ encode (decode w) = w

/-- No two of the 68 CHAR rows match the same code. (Derived from 30_encoding.md section 4, opcode_table.json.) -/
def Obligations.CharRowsDoNotOverlap : Prop :=
  charRows.length = 68 ∧
    charRows.Pairwise (fun x y => ∀ c : Byte, ¬(x.matchesCode c = true ∧ y.matchesCode c = true))

/-- The decode map of the character code (the special indices are the decision D9 of the spec). (Derived from
30_encoding.md section 4, 92_eei_decisions.md D9.) -/
def Obligations.CharCodesDecodeByTheMap : Prop :=
  (∀ k : Fin 26, Claims.upperInstrs[k.val]? = some (decodeChar (BitVec.ofNat 8 (0x41 + k.val)))) ∧
    (∀ k : Fin 26, Claims.lowerInstrs[k.val]? = some (decodeChar (BitVec.ofNat 8 (0x61 + k.val)))) ∧
    (∀ k : Fin 10, Claims.digitInstrs[k.val]? = some (decodeChar (BitVec.ofNat 8 (0x30 + k.val)))) ∧
    Claims.specialCodes.map decodeChar = Claims.specialInstrs ∧
    (∀ c : Byte, classify c = .none ↔ decodeChar c = .lutNone c) ∧
    Claims.codesOf .upper = 26 ∧ Claims.codesOf .lower = 26 ∧ Claims.codesOf .digit = 10 ∧
    Claims.codesOf .special = 6 ∧ Claims.codesOf .none = 188

/-- A step runs the decoded instruction (what a step takes next is log entries 1 and 2 of the model). (Derived from
00_scope.md section 4, 70_reset_and_hazards.md section 4, notes/assumptions/1.md, notes/assumptions/2.md.) -/
def Obligations.StepRunsTheDecodedInstruction : Prop :=
  (∀ (r : ReqWord) (rest : List ReqWord) (s : State), s.program = r :: rest →
      step s = exec (decode (.req r)) { s with program := rest }) ∧
    (∀ s : State, s.program = [] → step s = exec (decode (.char s.effective)) s)

/-- With no request waiting, a step drives encode of the standing inputs and changes nothing else (log entry 2 of the
model). (Derived from 10_state.md section 4, 41_operations.md section 3, notes/assumptions/2.md.) -/
def Obligations.StandingInputsGiveTheirPattern : Prop :=
  ∀ s : State, s.program = [] → step s = .next { s with segOut := requestOutput s.mem s.portRequest }

/-- The classifier sorts a character by its range. (Stated: R49.) -/
def Obligations.ClassifierFollowsTheRanges : Prop :=
  ∀ c : Byte, classify c =
    if 0x41#8 ≤ c ∧ c ≤ 0x5A#8 then .upper
    else if 0x61#8 ≤ c ∧ c ≤ 0x7A#8 then .lower
    else if 0x30#8 ≤ c ∧ c ≤ 0x39#8 then .digit
    else if c ∈ Claims.specialCodes then .special
    else .none

/-- Any order of the four class tests gives the same class. (Derived from 40_lookup.md section 1.) -/
def Obligations.TestOrderDoesNotMatter : Prop :=
  ∀ l : List (CharClass × (Byte → Bool)), l.Perm Claims.classTests → ∀ c : Byte, Claims.firstClass l c = classify c

/-- A signed character type gives the same classes, and 0x80 to 0xFF are blank. (Derived from 40_lookup.md section 3.) -/
def Obligations.SignednessDoesNotMatter : Prop :=
  (∀ c : Byte, Claims.classifySigned c = classify c) ∧
    (∀ (m : Memory) (c : Byte), 0x80 ≤ c.toNat → base m c = 0x00#8)

/-- UPPER lookup: base(c) = RomRead(UPPER_ROM, c - 0x41). (Stated: R51.) -/
def Obligations.UpperLookupReadsItsTable : Prop :=
  (∀ (m : Memory) (c : Byte), classify c = .upper →
      ∃ i : Fin RomTable.upper.size, i.val = (c - 0x41#8).toNat ∧ base m c = romRead m .upper i ∧
        some (decodeChar c) = Claims.upperInstrs[i.val]? ∧
        ∀ s : State, ∃ t : State, exec (decodeChar c) s = .next t) ∧
    (∀ m : Memory, base m 0x41#8 = romRead m .upper ⟨0, Claims.upper_0⟩ ∧
      base m 0x5A#8 = romRead m .upper ⟨25, Claims.upper_25⟩) ∧
    classify 0x40#8 = .none ∧ classify 0x5B#8 = .none ∧
    (∀ m : Memory, m.admitted = true → base m 0x41#8 = 0x77#8)

/-- LOWER lookup: base(c) = RomRead(LOWER_ROM, c - 0x61), never folded, both variants admitted. (Stated: R52.) -/
def Obligations.LowerLookupReadsItsOwnTable : Prop :=
  (∀ (m : Memory) (c : Byte), classify c = .lower →
      ∃ i : Fin RomTable.lower.size, i.val = (c - 0x61#8).toNat ∧ base m c = romRead m .lower i ∧
        some (decodeChar c) = Claims.lowerInstrs[i.val]? ∧
        ∀ s : State, ∃ t : State, exec (decodeChar c) s = .next t) ∧
    (∀ m : Memory, base m 0x61#8 = romRead m .lower ⟨0, Claims.lower_0⟩ ∧
      base m 0x7A#8 = romRead m .lower ⟨25, Claims.lower_25⟩) ∧
    classify 0x60#8 = .none ∧ classify 0x7B#8 = .none ∧
    (∀ f : Fin RomTable.lower.size → Byte, (∀ i, (f i).getLsbD 7 = false) →
      ∃ m : Memory, m.wf = true ∧ m.admitted = true ∧ ∀ i, romRead m .lower i = f i) ∧
    (∃ m : Memory, m.wf = true ∧ m.admitted = true ∧ base m 0x61#8 ≠ romRead m .upper ⟨0, Claims.upper_0⟩) ∧
    (∃ m : Memory, m.wf = true ∧ m.admitted = true ∧ ∀ c : Byte, classify c = .lower → base m c = 0x00#8)

/-- DIGIT lookup: base(c) = RomRead(DIGIT_ROM, c - 0x30). (Stated: R53.) -/
def Obligations.DigitLookupReadsItsTable : Prop :=
  (∀ (m : Memory) (c : Byte), classify c = .digit →
      ∃ i : Fin RomTable.digit.size, i.val = (c - 0x30#8).toNat ∧ base m c = romRead m .digit i ∧
        some (decodeChar c) = Claims.digitInstrs[i.val]? ∧
        ∀ s : State, ∃ t : State, exec (decodeChar c) s = .next t) ∧
    (∀ m : Memory, base m 0x30#8 = romRead m .digit ⟨0, Claims.digit_0⟩ ∧
      base m 0x39#8 = romRead m .digit ⟨9, Claims.digit_9⟩) ∧
    classify 0x2F#8 = .none ∧ classify 0x3A#8 = .none ∧
    (∀ m : Memory, m.admitted = true → base m 0x38#8 = 0x7F#8) ∧
    (∀ c : Byte, decodeChar c = .lutDigit8 ↔ c = 0x38#8) ∧
    (∀ (w : Nat) (f : BitVec w → Byte), 8 ≤ w → TruncAdmitted f →
      f (BitVec.ofNat w 8) = 0x08#8 ∧ classify (f (BitVec.ofNat w 8)) = .none)

/-- The six special characters read SPEC_ROM at 0 to 5, and space is blank (the indices are the decision D9 of the
spec). (Derived from 40_lookup.md section 2, 92_eei_decisions.md D9.) -/
def Obligations.SpecialLookupReadsItsEntry : Prop :=
  (∀ (m : Memory) (i : Fin RomTable.spec.size), ∃ c : Byte, Claims.specialCodes[i.val]? = some c ∧
      base m c = romRead m .spec i ∧ some (decodeChar c) = Claims.specialInstrs[i.val]?) ∧
    (∀ c : Byte, c ∈ Claims.specialNeighbours → classify c = .none) ∧
    (∀ m : Memory, m.admitted = true → base m 0x20#8 = 0x00#8)

/-- NONE: base(c) = 0x00 for each of the 188 other codes, whatever the tables hold. (Stated: R60.) -/
def Obligations.EveryOtherCharacterIsBlank : Prop :=
  (∀ (m : Memory) (c : Byte), classify c = .none → base m c = 0x00#8 ∧ decodeChar c = .lutNone c ∧
      ∀ s : State, ∃ t : State, exec (.lutNone c) s = .next t) ∧
    Claims.codesOf .none = 188 ∧ (∀ c : Byte, c.toNat ≤ 0x1F → classify c = .none) ∧ classify 0x7F#8 = .none ∧
    (∀ c : Byte, 0x80 ≤ c.toNat → classify c = .none) ∧ classify 0x3F#8 = .none ∧
    (∀ m : Memory, base m 0x3F#8 = 0x00#8)

/-- base(c)[7] = 0 for every character, with admitted tables. (Derived from 40_lookup.md section 3, 20_memory.md
section 1.) -/
def Obligations.BasePatternHasBit7Clear : Prop :=
  ∀ (m : Memory) (c : Byte), m.admitted = true → (base m c).getLsbD 7 = false

/-- An index is the character minus its anchor, never wraps and is inside its table. (Derived from 40_lookup.md
section 3, 30_encoding.md section 4.) -/
def Obligations.IndexNeverWraps : Prop :=
  (∀ c : Byte, classify c = .upper → 0x41 ≤ c.toNat ∧ anchorIndex 0x41#8 c = c.toNat - 0x41 ∧ c.toNat - 0x41 < 26) ∧
    (∀ c : Byte, classify c = .lower → 0x61 ≤ c.toNat ∧ anchorIndex 0x61#8 c = c.toNat - 0x61 ∧ c.toNat - 0x61 < 26) ∧
    (∀ c : Byte, classify c = .digit → 0x30 ≤ c.toNat ∧ anchorIndex 0x30#8 c = c.toNat - 0x30 ∧ c.toNat - 0x30 < 10) ∧
    (∀ c : Byte, (specIndex c).val < 6)

/-- The blank output arises from space, from a NONE character or from a zero table entry, and from nothing else.
(Stated: R64.) -/
def Obligations.BlankArisesInThreeWays : Prop :=
  ∀ (m : Memory) (c : Byte) (d : Bool), m.admitted = true →
    (dpMerge (base m c) d = (if d then 0x80#8 else 0x00#8) ↔
      c = 0x20#8 ∨ classify c = .none ∨
      (∃ i : Fin RomTable.upper.size, c.toNat = 0x41 + i.val ∧ romRead m .upper i = 0x00#8) ∨
      (∃ i : Fin RomTable.lower.size, c.toNat = 0x61 + i.val ∧ romRead m .lower i = 0x00#8) ∨
      (∃ i : Fin RomTable.digit.size, c.toNat = 0x30 + i.val ∧ romRead m .digit i = 0x00#8) ∨
      (∃ i : Fin RomTable.spec.size, Claims.specialCodes[i.val]? = some c ∧ romRead m .spec i = 0x00#8))

/-- Each LUT.UPPER row, run on any state, drives seg_out with its entry and changes nothing else (log entry 1 of the
model). (Derived from 40_lookup.md section 2, 41_operations.md section 2, notes/assumptions/1.md.) -/
def Obligations.UpperRowsDriveTheirEntry : Prop :=
  ∀ (k : Fin RomTable.upper.size) (s : State), ∃ i : Instr, Claims.upperInstrs[k.val]? = some i ∧
    exec i s = .next { s with segOut := dpMerge (romRead s.mem .upper k) s.dpEn }

/-- Each LUT.LOWER row, run on any state, drives seg_out with its entry and changes nothing else (log entry 1 of the
model). (Derived from 40_lookup.md section 2, 41_operations.md section 2, notes/assumptions/1.md.) -/
def Obligations.LowerRowsDriveTheirEntry : Prop :=
  ∀ (k : Fin RomTable.lower.size) (s : State), ∃ i : Instr, Claims.lowerInstrs[k.val]? = some i ∧
    exec i s = .next { s with segOut := dpMerge (romRead s.mem .lower k) s.dpEn }

/-- Each LUT.DIGIT row, run on any state, drives seg_out with its entry and changes nothing else (log entry 1 of the
model). (Derived from 40_lookup.md section 2, 41_operations.md section 2, notes/assumptions/1.md.) -/
def Obligations.DigitRowsDriveTheirEntry : Prop :=
  ∀ (k : Fin RomTable.digit.size) (s : State), ∃ i : Instr, Claims.digitInstrs[k.val]? = some i ∧
    exec i s = .next { s with segOut := dpMerge (romRead s.mem .digit k) s.dpEn }

/-- Each LUT.SPECIAL row, run on any state, drives seg_out with its entry and changes nothing else (log entry 1 of the
model). (Derived from 40_lookup.md section 2, 41_operations.md section 2, notes/assumptions/1.md.) -/
def Obligations.SpecialRowsDriveTheirEntry : Prop :=
  ∀ (k : Fin RomTable.spec.size) (s : State), ∃ i : Instr, Claims.specialInstrs[k.val]? = some i ∧
    exec i s = .next { s with segOut := dpMerge (romRead s.mem .spec k) s.dpEn }

/-- The default row, run on any state, drives the blank with the DP bit and changes nothing else (log entry 1 of the
model). (Derived from 40_lookup.md section 2, 41_operations.md section 2, notes/assumptions/1.md.) -/
def Obligations.DefaultRowDrivesTheBlank : Prop :=
  ∀ (c : Byte) (s : State), exec (.lutNone c) s = .next { s with segOut := if s.dpEn then 0x80#8 else 0x00#8 }

/-- Frame of the 69 CHAR rows: only seg_out changes (log entry 1 of the model). (Derived from 10_state.md section 2,
40_lookup.md section 2, notes/assumptions/1.md.) -/
def Obligations.RowsChangeOnlyTheOutputPort : Prop :=
  ∀ (i : Instr) (s t : State), Claims.isRow i = true → exec i s = .next t →
    t = { s with segOut := t.segOut } ∧ ∀ a : RomAddr, t.mem.byteAt a = s.mem.byteAt a

/-- ENC.CHAR: out <- dpmerge(base(ch_in), 0). (Stated: R65.) -/
def Obligations.EncCharGivesThePattern : Prop :=
  ∀ (ch : Byte) (cp : CodePoint) (s : State),
    decodeReq ⟨0b00#2, ch, cp⟩ = .encChar ch cp ∧
    ∃ t : State, exec (.encChar ch cp) s = .next t ∧
      t = { s with srcSel := false, dpEn := false, chIn := ch, cpIn := cp, segOut := dpMerge (base s.mem ch) false,
                   outputs := s.outputs ++ [dpMerge (base s.mem ch) false] } ∧
      t.segOut.getLsbD 7 = false ∧ (classify ch = .none → t.segOut = 0x00#8) ∧
      (0x80 ≤ ch.toNat → t.segOut = 0x00#8) ∧
      (∀ i : Fin RomTable.lower.size, ch.toNat = 0x61 + i.val → base s.mem ch = romRead s.mem .lower i) ∧
      (s.mem.admitted = true → t.segOut = base s.mem ch ∧ (ch = 0x20#8 → t.segOut = 0x00#8) ∧
        (ch = 0x41#8 → t.segOut = 0x77#8))

/-- ENC.CHAR.DP: out <- dpmerge(base(ch_in), 1). (Stated: R66.) -/
def Obligations.EncCharDpGivesThePatternWithPoint : Prop :=
  ∀ (ch : Byte) (cp : CodePoint) (s : State),
    decodeReq ⟨0b01#2, ch, cp⟩ = .encCharDp ch cp ∧
    ∃ t : State, exec (.encCharDp ch cp) s = .next t ∧
      t = { s with srcSel := false, dpEn := true, chIn := ch, cpIn := cp, segOut := dpMerge (base s.mem ch) true,
                   outputs := s.outputs ++ [dpMerge (base s.mem ch) true] } ∧
      t.segOut = base s.mem ch ||| 0x80#8 ∧ (classify ch = .none → t.segOut = 0x80#8) ∧
      (∃ u : State, exec (.encChar ch cp) s = .next u ∧ u.segOut &&& 0x7F#8 = t.segOut &&& 0x7F#8) ∧
      (s.mem.admitted = true → (ch = 0x20#8 → t.segOut = 0x80#8) ∧ (ch = 0x38#8 → t.segOut = 0xFF#8))

/-- ENC.CP: out <- dpmerge(base(CP_TRUNC(cp_in)), 0). (Stated: R67.) -/
def Obligations.EncCpGivesThePattern : Prop :=
  ∀ (ch : Byte) (cp : CodePoint) (s : State),
    decodeReq ⟨0b10#2, ch, cp⟩ = .encCp ch cp ∧
    ∃ t : State, exec (.encCp ch cp) s = .next t ∧
      t = { s with srcSel := true, dpEn := false, chIn := ch, cpIn := cp, segOut := dpMerge (base s.mem (cpTrunc cp)) false,
                   outputs := s.outputs ++ [dpMerge (base s.mem (cpTrunc cp)) false] } ∧
      (cp = BitVec.ofNat _ 0x41 → ∃ u : State, exec (.encChar 0x41#8 cp) s = .next u ∧ t.segOut = u.segOut) ∧
      (cp = BitVec.ofNat _ 0x08 → t.segOut = 0x00#8) ∧
      (classify (cpTrunc cp) = .none → t.segOut = 0x00#8) ∧
      (s.mem.admitted = true → cp = BitVec.ofNat _ 0x41 → t.segOut = 0x77#8) ∧
      cpTruncDefault 0x0141#16 = 0x41#8 ∧
      (∀ x : Byte, segEncode cpTruncDefault s.mem 0b10#2 x 0x0141#16 = dpMerge (base s.mem 0x41#8) false)

/-- ENC.CP.DP: out <- dpmerge(base(CP_TRUNC(cp_in)), 1). (Stated: R68.) -/
def Obligations.EncCpDpGivesThePatternWithPoint : Prop :=
  ∀ (ch : Byte) (cp : CodePoint) (s : State),
    decodeReq ⟨0b11#2, ch, cp⟩ = .encCpDp ch cp ∧
    ∃ t : State, exec (.encCpDp ch cp) s = .next t ∧
      t = { s with srcSel := true, dpEn := true, chIn := ch, cpIn := cp, segOut := dpMerge (base s.mem (cpTrunc cp)) true,
                   outputs := s.outputs ++ [dpMerge (base s.mem (cpTrunc cp)) true] } ∧
      t.segOut = base s.mem (cpTrunc cp) ||| 0x80#8 ∧ (classify (cpTrunc cp) = .none → t.segOut = 0x80#8) ∧
      (cp = BitVec.ofNat _ 0x08 → t.segOut = 0x80#8) ∧
      (cp = BitVec.ofNat _ 0x41 → ∃ u : State, exec (.encCharDp 0x41#8 cp) s = .next u ∧ t.segOut = u.segOut) ∧
      (s.mem.admitted = true → cp = BitVec.ofNat _ 0x38 → t.segOut = 0xFF#8) ∧
      cpTruncDefault 0x0141#16 = 0x41#8 ∧
      (∀ x : Byte, segEncode cpTruncDefault s.mem 0b11#2 x 0x0141#16 = dpMerge (base s.mem 0x41#8) true)

/-- Frame of the four requests: the ROM and the waiting requests are as before. (Derived from 10_state.md section 2,
41_operations.md section 3.) -/
def Obligations.RequestsChangeOnlyPortsAndOutputs : Prop :=
  ∀ (i : Instr) (s t : State), Claims.isRow i = false → exec i s = .next t →
    (∀ a : RomAddr, t.mem.byteAt a = s.mem.byteAt a) ∧ t.mem = s.mem ∧ t.program = s.program ∧
    t.outputs = s.outputs ++ [t.segOut]

/-- dpmerge(b, d): bit 7 is d and bits 6:0 are b (the mask is the decision D13 of the spec). (Derived from
41_operations.md section 2, 92_eei_decisions.md D13.) -/
def Obligations.DpMergeFixesBit7 : Prop :=
  ∀ (b : Byte) (d : Bool), dpMerge b d = (b &&& 0x7F#8) ||| (if d then 0x80#8 else 0x00#8) ∧
    (dpMerge b d).getLsbD 7 = d ∧ (∀ k : Fin 7, (dpMerge b d).getLsbD k.val = b.getLsbD k.val) ∧
    (b.getLsbD 7 = false → dpMerge b false = b)

/-- CP_TRUNC is cp[7:0] on 0..127 and CP_WIDTH is at least 8 (decisions D2 and D3 of the spec). (Derived from
41_operations.md section 2, 92_eei_decisions.md D2, 92_eei_decisions.md D3.) -/
def Obligations.TruncationKeepsTheConstraint : Prop :=
  TruncAdmitted cpTrunc ∧ 8 ≤ Config.cpWidth ∧ (∀ w : Nat, TruncAdmitted (cpTruncDefault (w := w)))

/-- The admitted truncations are exactly those the model's form allows. (Derived from 41_operations.md section 2,
93_implementation_defined.md section 1.) -/
def Obligations.EveryAdmittedTruncationIsCovered : Prop :=
  (∀ (w : Nat) (f : BitVec w → Byte), TruncAdmitted f ↔ ∃ g : BitVec w → Byte, f = cpTruncBy g) ∧
    cpTrunc = cpTruncBy Config.cpTruncOutside

/-- patternFromCodePoint(n) = patternFromCharacter(charFromCode(n)) for n in 0..127. (Derived from 41_operations.md
section 2, 95_test_vectors.md section 1.) -/
def Obligations.CodePointAgreesWithCharacter : Prop :=
  ∀ (n : Nat) (s : State) (ch : Byte) (cp : CodePoint), n ≤ 127 →
    ∃ t u t' u' : State,
      exec (.encCp ch (BitVec.ofNat _ n)) s = .next t ∧ exec (.encChar (BitVec.ofNat 8 n) cp) s = .next u ∧
      exec (.encCpDp ch (BitVec.ofNat _ n)) s = .next t' ∧ exec (.encCharDp (BitVec.ofNat 8 n) cp) s = .next u' ∧
      t.segOut = u.segOut ∧ t'.segOut = u'.segOut

/-- The laws L1 to L7 of the four operations (the spec marks its rule as derived). (Derived from 41_operations.md
section 3.) -/
def Obligations.LawsOfTheOperations : Prop :=
  ∀ (s : State) (c : Byte) (cp : CodePoint), ∃ a b x y : State,
      exec (.encChar c cp) s = .next a ∧ exec (.encCharDp c cp) s = .next b ∧
      exec (.encCp c cp) s = .next x ∧ exec (.encCpDp c cp) s = .next y ∧
      b.segOut = a.segOut ||| 0x80#8 ∧
      (expandCall c cp (.patternFromCharacter c (some false)) = some ⟨0b00#2, c, cp⟩ ∧
        expandCall c cp (.patternFromCharacter c none) = some ⟨0b00#2, c, cp⟩) ∧
      a.segOut.getLsbD 7 = false ∧ (classify c = .none → a.segOut = 0x00#8) ∧
      (∃ u v : State, exec (.encChar (cpTrunc cp) cp) s = .next u ∧ x.segOut = u.segOut ∧
        exec (.encCharDp (cpTrunc cp) cp) s = .next v ∧ y.segOut = v.segOut) ∧
      a.segOut &&& 0x7F#8 = b.segOut &&& 0x7F#8 ∧ x.segOut &&& 0x7F#8 = y.segOut &&& 0x7F#8

/-- The effective character is ch, or CP_TRUNC(cp) where op[1] is 1. (Stated: R41.) -/
def Obligations.EffectiveCharacterIsTheSelectedOperand : Prop :=
  ∀ (r : ReqWord) (s : State), ∃ t : State, exec (decodeReq r) s = .next t ∧
    t.effective = (if r.op.getLsbD 1 = false then r.ch else cpTrunc r.cp) ∧
    t.segOut = dpMerge (base s.mem (if r.op.getLsbD 1 = false then r.ch else cpTrunc r.cp)) (r.op.getLsbD 0)

/-- A request produces exactly one output byte, encode(op, ch, cp), and writes nothing else of the block. (Derived
from 41_operations.md section 3.) -/
def Obligations.RequestWritesOnlyItsOutput : Prop :=
  ∀ (r : ReqWord) (s : State), exec (decodeReq r) s =
    .next { s with srcSel := r.op.getLsbD 1, dpEn := r.op.getLsbD 0, chIn := r.ch, cpIn := r.cp,
                   segOut := segEncode cpTrunc s.mem r.op r.ch r.cp,
                   outputs := s.outputs ++ [segEncode cpTrunc s.mem r.op r.ch r.cp] }

/-- The request function agrees with the CHAR row that the character decoder selects (log entry 1 of the model).
(Derived from 30_encoding.md section 4, 40_lookup.md section 3, notes/assumptions/1.md.) -/
def Obligations.RequestRunsTheRowOfItsCharacter : Prop :=
  ∀ (r : ReqWord) (s : State), ∃ t u : State, exec (decodeReq r) s = .next t ∧
    exec (decodeChar (effectiveChar cpTrunc (r.op.getLsbD 1) r.ch r.cp))
      { s with srcSel := r.op.getLsbD 1, dpEn := r.op.getLsbD 0, chIn := r.ch, cpIn := r.cp } = .next u ∧
    u.segOut = t.segOut ∧ u = { t with outputs := s.outputs }

/-- After every step, seg_out[7] = dp_en and seg_out[6:0] is the base pattern of the effective character. (Derived
from 10_state.md section 3.) -/
def Obligations.OutputBitsAfterEveryStep : Prop :=
  ∀ s t : State, step s = .next t → t.segOut.getLsbD 7 = t.dpEn ∧
    t.segOut &&& 0x7F#8 = base t.mem t.effective &&& 0x7F#8

/-- The unselected operand has no effect on seg_out (decision D22 of the spec). (Derived from 10_state.md section 3,
92_eei_decisions.md D22.) -/
def Obligations.UnselectedOperandIsIgnored : Prop :=
  ∀ (op : BitVec 2) (ch ch' : Byte) (cp cp' : CodePoint) (s : State),
    (op.getLsbD 1 = false → ∃ t u : State, exec (decodeReq ⟨op, ch, cp⟩) s = .next t ∧
      exec (decodeReq ⟨op, ch, cp'⟩) s = .next u ∧ t.segOut = u.segOut) ∧
    (op.getLsbD 1 = true → ∃ t u : State, exec (decodeReq ⟨op, ch, cp⟩) s = .next t ∧
      exec (decodeReq ⟨op, ch', cp⟩) s = .next u ∧ t.segOut = u.segOut)

/-- Two requests with the same input values give the same output whatever came between them. (Stated: R18.) -/
def Obligations.OutputDoesNotDependOnHistory : Prop :=
  ∀ (r : ReqWord) (k : Nat) (s s' : State), Host.Core.run Sys2Proof.core k s = .next s' →
    ∃ t t' : State, exec (decodeReq r) s = .next t ∧ exec (decodeReq r) s' = .next t' ∧ t.segOut = t'.segOut

/-- Two instances with the same tables give the same output for the same request. (Derived from 10_state.md section 4,
60_exceptions.md section 4.) -/
def Obligations.InstancesWithTheSameTablesAgree : Prop :=
  ∀ (r : ReqWord) (s s' : State), (∀ a : RomAddr, s.mem.byteAt a = s'.mem.byteAt a) →
    ∃ t t' : State, exec (decodeReq r) s = .next t ∧ exec (decodeReq r) s' = .next t' ∧ t.segOut = t'.segOut

/-- No request writes the ROM, and its contents never change after build. (Stated: R33.) -/
def Obligations.RomIsNeverWritten : Prop :=
  (∀ (i : Instr) (s t : State), exec i s = .next t → t.mem = s.mem) ∧
    (∀ (k : Nat) (s t : State), Host.Core.run Sys2Proof.core k s = .next t → t.mem = s.mem)

/-- No encoding is illegal or reserved: every request value has a defined output. (Stated: R44.) -/
def Obligations.EveryRequestValueCompletes : Prop :=
  (∀ (op : BitVec 2) (ch : Byte) (cp : CodePoint) (s : State), (decodeReq ⟨op, ch, cp⟩).wf = true ∧
      ∃ t : State, exec (decodeReq ⟨op, ch, cp⟩) s = .next t ∧ t.segOut = segEncode cpTrunc s.mem op ch cp) ∧
    (∀ (m : Memory) (c : Byte), classify c = .none → decodeChar c = .lutNone c ∧ base m c = 0x00#8)

/-- No fault outcome for any request. (Stated: R74.) -/
def Obligations.NoRequestFaults : Prop :=
  (∀ (i : Instr) (s : State), ∃ t : State, exec i s = .next t) ∧ (∀ s : State, ∃ t : State, step s = .next t) ∧
    (∀ _ : Fault, False)

/-- An unrecognized character produces the blank pattern, with DP when dp_en = 1, and no exception. (Stated: R75.) -/
def Obligations.UnrecognizedCharacterIsNoException : Prop :=
  ∀ (c : Byte) (cp : CodePoint) (s : State), classify c = .none →
    ∃ t u v : State, exec (.encChar c cp) s = .next t ∧ t.segOut = 0x00#8 ∧
      exec (.encCharDp c cp) s = .next u ∧ u.segOut = 0x80#8 ∧
      exec (.encChar 0x20#8 cp) s = .next v ∧ (s.mem.admitted = true → v.segOut = t.segOut)

/-- Every request completes with one output, so every finite program ends; steps after its last request are log entry
2 of the model. (Derived from 70_reset_and_hazards.md section 4, 41_operations.md section 3,
notes/assumptions/2.md.) -/
def Obligations.EveryProgramEndsWithItsOutputs : Prop :=
  (∀ s : State, ∃ t : State, Host.Core.run Sys2Proof.core s.program.length s = .next t ∧ t.program = [] ∧
      t.outputs = s.outputs ++ s.program.map (fun r => segEncode cpTrunc s.mem r.op r.ch r.cp)) ∧
    (∀ (k : Nat) (s : State), ∃ t : State, Host.Core.run Sys2Proof.core k s = .next t)

/-- A request gives its own output wherever it stands among others. (Derived from 20_memory.md section 3,
70_reset_and_hazards.md section 2.) -/
def Obligations.PlaceInTheOrderDoesNotMatter : Prop :=
  ∀ (s : State) (before after : List ReqWord) (r : ReqWord), ∃ t : State,
    Host.Core.run Sys2Proof.core (before.length + (1 + after.length))
      { s with program := before ++ r :: after } = .next t ∧
    t.outputs[s.outputs.length + before.length]? = some (segEncode cpTrunc s.mem r.op r.ch r.cp)

/-- Reset: the tables hold their build-time contents and seg_out is encode of the inputs (the zero inputs are log
entry 3 of the model). (Derived from 10_state.md section 4, 70_reset_and_hazards.md section 1,
notes/assumptions/3.md, notes/assumptions/4.md.) -/
def Obligations.ResetIsAGoodState : Prop :=
  Safety.Inv State.reset ∧ (∀ a : RomAddr, State.reset.mem.byteAt a = buildEntry a) ∧
    romRead State.reset.mem .upper ⟨0, Claims.upper_0⟩ = 0x77#8 ∧
    romRead State.reset.mem .digit ⟨8, Claims.digit_8⟩ = 0x7F#8 ∧
    romRead State.reset.mem .spec ⟨5, Claims.spec_5⟩ = 0x00#8 ∧
    (∀ a : RomAddr, (State.reset.mem.byteAt a).getLsbD 7 = false)

/-- Every step keeps a good state good. (Derived from 10_state.md section 4, 20_memory.md section 2, 41_operations.md
section 3.) -/
def Obligations.EveryStepKeepsTheInvariant : Prop :=
  ∀ s t : State, Safety.Inv s → step s = .next t → Safety.Inv t

/-- After one step from any state, seg_out is encode of the ports. (Derived from 10_state.md section 4,
41_operations.md section 3.) -/
def Obligations.OneStepMakesTheOutputRight : Prop :=
  ∀ s t : State, step s = .next t → t.segOut = segEncode cpTrunc t.mem (opOf t.srcSel t.dpEn) t.chIn t.cpIn

/-- The four tables fill the 68 addresses of the ROM in order (decision D9 of the spec). (Derived from 20_memory.md
section 1, 92_eei_decisions.md D9.) -/
def Obligations.RomMapIsLinear : Prop :=
  (∀ i : Fin RomTable.upper.size, (romAddr .upper i).val = i.val) ∧
    (∀ i : Fin RomTable.lower.size, (romAddr .lower i).val = 26 + i.val) ∧
    (∀ i : Fin RomTable.digit.size, (romAddr .digit i).val = 52 + i.val) ∧
    (∀ i : Fin RomTable.spec.size, (romAddr .spec i).val = 62 + i.val) ∧
    (∀ a : RomAddr, ∃ (t : RomTable) (i : Fin t.size), romAddr t i = a ∧
      ∀ (t' : RomTable) (i' : Fin t'.size), romAddr t' i' = a → t' = t ∧ i'.val = i.val)

/-- Bit 7 of every entry is 0, and a configuration that breaks this is refused by the configuration check. (Stated:
R30.) -/
def Obligations.AdmittedTablesHaveBit7Clear : Prop :=
  ∀ m : Memory, (m.admitted = true → ∀ (t : RomTable) (i : Fin t.size), (romRead m t i).getLsbD 7 = false) ∧
    ((∃ (t : RomTable) (i : Fin t.size), (romRead m t i).getLsbD 7 = true) → m.admitted = false)

/-- The configuration check admits exactly the tables the spec admits (decision D23 of the spec). (Derived from
00_scope.md section 3, 92_eei_decisions.md D23, 95_test_vectors.md section 2.) -/
def Obligations.ConfigurationCheckIsExact : Prop :=
  ∀ f : RomAddr → Byte, tablesAdmitted f = true ↔
    (∀ a, (f a).getLsbD 7 = false) ∧ f (romAddr .upper ⟨0, Claims.upper_0⟩) = 0x77#8 ∧
      f (romAddr .digit ⟨8, Claims.digit_8⟩) = 0x7F#8 ∧ f (romAddr .spec ⟨5, Claims.spec_5⟩) = 0x00#8

/-- Every contents of the four tables is exactly one canonical memory (log entry 8 of the model). (Derived from
00_scope.md section 3, 20_memory.md section 1, notes/assumptions/8.md.) -/
def Obligations.EveryTableContentsHasOneMemory : Prop :=
  (∀ f : RomAddr → Byte, ∃ m : Memory, m.wf = true ∧ ∀ a, m.byteAt a = f a) ∧
    (∀ m m' : Memory, m.wf = true → m'.wf = true → (∀ a, m.byteAt a = m'.byteAt a) → m = m')

/-- seg_out is laid out as DP g f e d c b a, and a 1 lights the segment. (Stated: R23.) -/
def Obligations.PatternBitsAreSegments : Prop :=
  (∀ v : Byte, segmentLit v .a = v.getLsbD 0 ∧ segmentLit v .b = v.getLsbD 1 ∧ segmentLit v .c = v.getLsbD 2 ∧
      segmentLit v .d = v.getLsbD 3 ∧ segmentLit v .e = v.getLsbD 4 ∧ segmentLit v .f = v.getLsbD 5 ∧
      segmentLit v .g = v.getLsbD 6 ∧ segmentLit v .dp = v.getLsbD 7) ∧
    (∀ (r : ReqWord) (s : State), ∃ t : State, exec (decodeReq r) s = .next t ∧
      segmentLit t.segOut .dp = r.op.getLsbD 0)

/-- A lights a, b, c, e, f and g, and 8 lights all seven, with DP dark. (Derived from 00_scope.md section 4.) -/
def Obligations.SourceValuesLightTheirSegments : Prop :=
  ∀ (cp : CodePoint) (s : State), s.mem.admitted = true →
    ∃ t u : State, exec (.encChar 0x41#8 cp) s = .next t ∧ exec (.encChar 0x38#8 cp) s = .next u ∧
      (∀ x : Segment, segmentLit t.segOut x = decide (x ≠ .d ∧ x ≠ .dp)) ∧
      (∀ x : Segment, segmentLit u.segOut x = decide (x ≠ .dp))

/-- The source's call forms expand to the four requests (the unselected port and the digit index are log entries 21
and 5 of the model). (Derived from 30_encoding.md section 6, 00_scope.md section 2, notes/assumptions/5.md,
notes/assumptions/21.md.) -/
def Obligations.SourceCallsExpandToRequests : Prop :=
  ∀ (x c : Byte) (y n : CodePoint) (i b : Byte),
    expandCall x y (.patternFromCharacter c none) = some ⟨0b00#2, c, y⟩ ∧
    (∀ d : Bool, expandCall x y (.patternFromCharacter c (some d)) = some ⟨if d then 0b01#2 else 0b00#2, c, y⟩) ∧
    expandCall x y (.patternFromCodePoint n none) = some ⟨0b10#2, x, n⟩ ∧
    (∀ d : Bool, expandCall x y (.patternFromCodePoint n (some d)) = some ⟨if d then 0b11#2 else 0b10#2, x, n⟩) ∧
    (∀ o : Option Bool,
      expandCall x y (.updateDigitCharacter i c o) = expandCall x y (.patternFromCharacter c o) ∧
      expandCall x y (.updateDigitCodePoint i n o) = expandCall x y (.patternFromCodePoint n o)) ∧
    expandCall x y (.updateDigitWithByte i b) = none ∧ frameOf i b = [i, b]

/-- Assembler text: every ASCII literal and every number in range gives its request, each mnemonic in any case
(details are log entries 20 and 21 of the model). (Derived from 30_encoding.md section 6, 92_eei_decisions.md D8,
notes/assumptions/20.md, notes/assumptions/21.md.) -/
def Obligations.AssemblerReadsEveryCharLiteral : Prop :=
  ∀ (x : Byte) (y : CodePoint),
    (∀ (lead word gap tail : List Char) (op : BitVec 2), Claims.blankText lead → Claims.writesMnemonic word op →
      Claims.blankText gap → gap ≠ [] → Claims.endsLine tail →
      (op.getLsbD 1 = false →
        (∀ c : Char, c.toNat < 128 → c ≠ '\'' → c ≠ '\\' →
          asmLine x y (Claims.lineOf lead word gap ['\'', c, '\''] tail) =
            .ok (some ⟨op, BitVec.ofNat 8 c.toNat, y⟩)) ∧
        asmLine x y (Claims.lineOf lead word gap ['\'', '\\', '\'', '\''] tail) = .ok (some ⟨op, 0x27#8, y⟩) ∧
        asmLine x y (Claims.lineOf lead word gap ['\'', '\\', '\\', '\''] tail) = .ok (some ⟨op, 0x5C#8, y⟩) ∧
        (∀ (text : List Char) (n : Nat), Claims.writesDecimal text n ∨ Claims.writesHex text n →
          (n < 256 → asmLine x y (Claims.lineOf lead word gap text tail) = .ok (some ⟨op, BitVec.ofNat 8 n, y⟩)) ∧
          (256 ≤ n → asmLine x y (Claims.lineOf lead word gap text tail) = .error .operandTooWide))) ∧
      (op.getLsbD 1 = true →
        (∀ (text : List Char) (n : Nat), Claims.writesDecimal text n ∨ Claims.writesHex text n →
          (n < 2 ^ Config.cpWidth →
            asmLine x y (Claims.lineOf lead word gap text tail) = .ok (some ⟨op, x, BitVec.ofNat _ n⟩)) ∧
          (2 ^ Config.cpWidth ≤ n →
            asmLine x y (Claims.lineOf lead word gap text tail) = .error .operandTooWide)) ∧
        (∀ (text : List Char) (n : Nat), Claims.writesDecimal text n →
          (n ≤ 2 ^ (Config.cpWidth - 1) →
            asmLine x y (Claims.lineOf lead word gap ('-' :: text) tail) = .ok (some ⟨op, x, BitVec.ofInt _ (-n)⟩)) ∧
          (2 ^ (Config.cpWidth - 1) < n →
            asmLine x y (Claims.lineOf lead word gap ('-' :: text) tail) = .error .operandTooWide)))) ∧
    (∀ tail : List Char, Claims.endsLine tail → asmLine x y tail = .ok none) ∧
    (∀ n : Nat, ∃ d h : List Char, Claims.writesDecimal d n ∧ Claims.writesHex h n)

/-- The deliberately false claim of the spec: enc.char b is never blank. (Derived from 95_test_vectors.md section 3.) -/
def Obligations.LowercaseBIsNeverBlank : Prop :=
  ∀ (cp : CodePoint) (s t : State), s.mem.wf = true → s.mem.admitted = true →
    exec (.encChar 0x62#8 cp) s = .next t → t.segOut ≠ 0x00#8
end

