-- ==== Sys2Proof/Laws/Assembler.lean ====
section
/-! SUPPORT. What the reader of assembler text answers on each part of a line. -/

namespace Sys2Proof.Laws

open Sys2Proof.Machine

/-- White space before a character that is none is dropped, and nothing else. -/
theorem dropWhile_blank (b : List Char) (c : Char) (cs : List Char) (hb : ∀ x ∈ b, asmBlank x = true)
    (hc : asmBlank c = false) : (b ++ c :: cs).dropWhile asmBlank = c :: cs := by
  induction b with
  | nil => simp [hc]
  | cons x xs ih => simp [hb x (by simp), ih fun y hy => hb y (by simp [hy])]

/-- A word ends where white space or a comment starts. -/
theorem takeWhile_word (w t : List Char) (hw : ∀ x ∈ w, asmEndsWord x = false)
    (ht : ∀ x ∈ t.head?, asmEndsWord x = true) : (w ++ t).takeWhile (fun c => !asmEndsWord c) = w := by
  induction w with
  | nil => cases t with
    | nil => rfl
    | cons x xs => simp [ht x (by simp)]
  | cons x xs ih => simpa [hw x (by simp)] using ih fun y hy => hw y (by simp [hy])

/-- What stands after a word. -/
theorem dropWhile_word (w t : List Char) (hw : ∀ x ∈ w, asmEndsWord x = false)
    (ht : ∀ x ∈ t.head?, asmEndsWord x = true) : (w ++ t).dropWhile (fun c => !asmEndsWord c) = t := by
  induction w with
  | nil => cases t with
    | nil => rfl
    | cons x xs => simp [ht x (by simp)]
  | cons x xs ih => simpa [hw x (by simp)] using ih fun y hy => hw y (by simp [hy])

/-- White space alone is the end of a line. -/
theorem asmAtEnd_blank (b : List Char) (hb : ∀ x ∈ b, asmBlank x = true) : asmAtEnd b = true := by
  have : b.dropWhile asmBlank = [] := List.dropWhile_eq_nil_iff.mpr hb
  simp [asmAtEnd, this]

/-- A comment after white space is the end of a line (R47). -/
theorem asmAtEnd_comment (b k : List Char) (hb : ∀ x ∈ b, asmBlank x = true) : asmAtEnd (b ++ ';' :: k) = true := by
  simp [asmAtEnd, dropWhile_blank b ';' k hb (by decide)]

/-- The end of a line ends a word too. -/
theorem head_of_asmAtEnd (t : List Char) (h : asmAtEnd t = true) : ∀ x ∈ t.head?, asmEndsWord x = true := by
  cases t with
  | nil => simp
  | cons x xs =>
    intro y hy
    obtain rfl : x = y := by simpa using hy
    cases hx : asmBlank x with
    | true => simp [asmEndsWord, hx]
    | false => simp [asmAtEnd, hx] at h; simp [asmEndsWord, h]

/-- A line whose text is at its end holds no request. -/
theorem asmLine_of_asmAtEnd (x : Byte) (y : CodePoint) (t : List Char) (h : asmAtEnd t = true) :
    asmLine x y t = .ok none := by
  have : asmAtEnd (t.dropWhile asmBlank) = true := by
    simpa [asmAtEnd, List.dropWhile_idempotent asmBlank t] using h
  simp [asmLine, this]

/-- A line with a word and an operand is read by the mnemonic that the word spells. -/
theorem asmLine_of_word (x : Byte) (y : CodePoint) (lead word gap : List Char) (c : Char) (cs : List Char)
    (hl : ∀ z ∈ lead, asmBlank z = true) (hw : ∀ z ∈ word, asmEndsWord z = false) (hn : word ≠ [])
    (hg : ∀ z ∈ gap, asmBlank z = true) (hgn : gap ≠ []) (hc : asmBlank c = false) :
    asmLine x y (lead ++ (word ++ (gap ++ c :: cs))) =
      match asmOp word with
      | none => .error .unknownMnemonic
      | some op =>
        if op.getLsbD 1 then
          match asmCodePointOperand (c :: cs) with
          | .error e => .error e
          | .ok (n, rest) => if asmAtEnd rest then .ok (some ⟨op, x, n⟩) else .error .trailingText
        else
          match asmCharOperand (c :: cs) with
          | .error e => .error e
          | .ok (d, rest) => if asmAtEnd rest then .ok (some ⟨op, d, y⟩) else .error .trailingText := by
  obtain ⟨w, ws, rfl⟩ := List.exists_cons_of_ne_nil hn
  obtain ⟨g, gs, rfl⟩ := List.exists_cons_of_ne_nil hgn
  have hwb : asmBlank w = false ∧ (w == ';') = false := by
    simpa [asmEndsWord] using hw w (by simp)
  have e1 : (lead ++ (w :: ws ++ (g :: gs ++ c :: cs))).dropWhile asmBlank = w :: ws ++ (g :: gs ++ c :: cs) :=
    dropWhile_blank lead w _ hl hwb.1
  have e2 : asmAtEnd (w :: ws ++ (g :: gs ++ c :: cs)) = false := by
    simp only [asmAtEnd, List.cons_append, List.dropWhile_cons, hwb.1, hwb.2, Bool.false_eq_true, if_false]
  have hg' : ∀ z ∈ (g :: gs ++ c :: cs).head?, asmEndsWord z = true := by
    intro z hz
    obtain rfl : g = z := by simpa using hz
    simp [asmEndsWord, hg g (by simp)]
  simp only [asmLine, e1, e2, takeWhile_word _ _ hw hg', dropWhile_word _ _ hw hg', dropWhile_blank _ _ _ hg hc,
    Bool.false_eq_true, if_false] <;> rfl

/-- A word that spells a mnemonic holds no white space and no comment, and it is not empty. -/
theorem asmOp_word (word : List Char) (op : BitVec 2) (h : (word.map Char.toLower, op) ∈ asmMnemonics) :
    asmOp word = some op ∧ (∀ z ∈ word, asmEndsWord z = false) ∧ word ≠ [] := by
  have key : ∀ e ∈ asmMnemonics, asmMnemonics.lookup e.1 = some e.2 ∧ e.1 ≠ [] ∧
      ∀ z ∈ e.1, z ≠ ' ' ∧ z ≠ '\t' ∧ z ≠ ';' := by simp [asmMnemonics, List.lookup]
  obtain ⟨k1, k2, k3⟩ := key _ h
  refine ⟨k1, fun z hz => ?_, fun e => k2 (by simp [e])⟩
  have hz' := k3 z.toLower (List.mem_map_of_mem hz)
  have n1 : z ≠ ' ' := by rintro rfl; exact hz'.1 (by decide)
  have n2 : z ≠ '\t' := by rintro rfl; exact hz'.2.1 (by decide)
  have n3 : z ≠ ';' := by rintro rfl; exact hz'.2.2 (by decide)
  simp [asmEndsWord, asmBlank, n1, n2, n3]

/-- A text of digits has the number that its digits add up to. -/
theorem asmDigits_map {α : Type} (radix : Nat) (f : α → Char) (v : α → Nat)
    (h : ∀ a, asmDigit radix (f a) = some (v a)) (acc : Nat) (ds : List α) :
    asmDigits radix acc (ds.map f) = some ((ds.map v).foldl (fun n d => n * radix + d) acc) := by
  induction ds generalizing acc with
  | nil => rfl
  | cons d ds ih => simp [asmDigits, h, ih]

/-- Every ASCII character but the apostrophe and the backslash stands for itself between single quotes (R47). -/
theorem asmCharOperand_literal (c : Char) (rest : List Char) (h : c.toNat < 128) (h1 : c ≠ '\'') (h2 : c ≠ '\\') :
    asmCharOperand ('\'' :: c :: '\'' :: rest) = .ok (BitVec.ofNat 8 c.toNat, rest) := by
  have : asmCharLiteral ('\'' :: c :: '\'' :: rest) = some (BitVec.ofNat 8 c.toNat, rest) := by
    unfold asmCharLiteral; split <;> simp_all
  simp [asmCharOperand, this]

/-- The apostrophe and the backslash stand after a backslash (R47; log entry 20). -/
theorem asmCharOperand_escape (c : Char) (rest : List Char) (h : c = '\'' ∨ c = '\\') :
    asmCharOperand ('\'' :: '\\' :: c :: '\'' :: rest) = .ok (BitVec.ofNat 8 c.toNat, rest) := by
  simp [asmCharOperand, asmCharLiteral, h]

/-- A number as a character operand: taken below 256, too wide from there on. -/
theorem asmCharOperand_number (word tail : List Char) (n : Nat) (hw : ∀ z ∈ word, asmEndsWord z = false)
    (hq : word.head? ≠ some '\'') (hne : word ≠ []) (ht : asmAtEnd tail = true) (hn : asmNat word = some n) :
    asmCharOperand (word ++ tail) =
      if n < 256 then .ok (BitVec.ofNat 8 n, tail) else .error .operandTooWide := by
  obtain ⟨w, ws, rfl⟩ := List.exists_cons_of_ne_nil hne
  have hq' : w ≠ '\'' := by simpa using hq
  have e1 := takeWhile_word _ _ hw (head_of_asmAtEnd _ ht)
  have e2 := dropWhile_word _ _ hw (head_of_asmAtEnd _ ht)
  unfold asmCharOperand
  split
  · next h => exact absurd (by simpa using h) hq'
  · simp only [e1, e2, hn]

/-- A number as a code point: taken below 2 to the power `CP_WIDTH`, too wide from there on (R47). -/
theorem asmCodePointOperand_number (word tail : List Char) (n : Nat) (hw : ∀ z ∈ word, asmEndsWord z = false)
    (hm : word.head? ≠ some '-') (ht : asmAtEnd tail = true) (hn : asmNat word = some n) :
    asmCodePointOperand (word ++ tail) =
      if n < 2 ^ Config.cpWidth then .ok (BitVec.ofNat _ n, tail) else .error .operandTooWide := by
  have e1 := takeWhile_word _ _ hw (head_of_asmAtEnd _ ht)
  have e2 := dropWhile_word _ _ hw (head_of_asmAtEnd _ ht)
  unfold asmCodePointOperand
  simp only [e1, e2]
  split
  · exact absurd rfl hm
  · simp only [hn]

/-- A negative decimal as a code point: its two's-complement pattern (R47) down to minus 2 to the power
`CP_WIDTH` - 1 (log entry 20), too wide beyond. -/
theorem asmCodePointOperand_negative (ds tail : List Char) (n : Nat) (hw : ∀ z ∈ ds, asmEndsWord z = false)
    (hne : ds ≠ []) (ht : asmAtEnd tail = true) (hn : asmDigits 10 0 ds = some n) :
    asmCodePointOperand ('-' :: ds ++ tail) =
      if n ≤ 2 ^ (Config.cpWidth - 1) then .ok (-(BitVec.ofNat _ n), tail) else .error .operandTooWide := by
  have hw' : ∀ z ∈ '-' :: ds, asmEndsWord z = false := by
    simpa [show asmEndsWord '-' = false by decide] using hw
  have e1 := takeWhile_word _ _ hw' (head_of_asmAtEnd _ ht)
  have e2 := dropWhile_word _ _ hw' (head_of_asmAtEnd _ ht)
  obtain ⟨d, ds, rfl⟩ := List.exists_cons_of_ne_nil hne
  unfold asmCodePointOperand
  simp only [e1, e2, hn]

end Sys2Proof.Laws
end

