-- ==== Sys2Proof/Laws/Decode.lean ====
section
/-! SUPPORT. What the decoders answer: the default row stands for exactly the codes of no other row, and every row's
code is read as the row. -/

namespace Sys2Proof.Laws

/-- A code outside the 68 finds no row of mask 0xFF. -/
theorem find_row_of_not_tableCode :
    ∀ c : Byte, tableCode c = false → (charRows.find? (fun r => r.matchesCode c)).isNone = true := by
  decide +kernel

/-- A code outside the 68 decodes to the default row (R42, R60). -/
theorem decodeChar_of_not_tableCode (c : Byte) (h : tableCode c = false) : decodeChar c = .lutNone c := by
  have hn := Option.isNone_iff_eq_none.mp (find_row_of_not_tableCode c h)
  rw [decodeChar, hn]

/-- A decoded character is well formed: the default row is reached by no code of the 68. -/
theorem decodeChar_wf : ∀ c : Byte, (decodeChar c).wf = true := by
  decide +kernel

/-- A decoded request is well formed. -/
theorem decodeReq_wf (r : ReqWord) : (decodeReq r).wf = true := by
  rw [decodeReq]; split <;> rfl

/-- The four values of `op` select the four operations (R40). -/
theorem decode_encode_encChar (ch : Byte) (cp : CodePoint) : decode (encode (.encChar ch cp)) = .encChar ch cp := by
  simp [decode, encode, decodeReq]

theorem decode_encode_encCharDp (ch : Byte) (cp : CodePoint) : decode (encode (.encCharDp ch cp)) = .encCharDp ch cp := by
  simp [decode, encode, decodeReq]

theorem decode_encode_encCp (ch : Byte) (cp : CodePoint) : decode (encode (.encCp ch cp)) = .encCp ch cp := by
  simp [decode, encode, decodeReq]

theorem decode_encode_encCpDp (ch : Byte) (cp : CodePoint) : decode (encode (.encCpDp ch cp)) = .encCpDp ch cp := by
  simp [decode, encode, decodeReq]

/-- The encoder gives back the character that was decoded. -/
theorem encode_decodeChar : ∀ c : Byte, encode (decodeChar c) = .char c := by
  decide +kernel

end Sys2Proof.Laws
end

