-- ==== Sys2Proof/Laws/Memory.lean ====
section
/-! SUPPORT. The pattern ROM: what its operations answer, and that they keep the canonical form. -/

namespace Sys2Proof.Machine

/-- Nothing listed: every entry is the build-time one. -/
@[simp] theorem Memory.byteAt_nil (a : RomAddr) : Memory.byteAt [] a = buildEntry a := rfl

/-- The memory as built is canonical. -/
@[simp] theorem Memory.wf_nil : Memory.wf [] = true := rfl

/-- Bit 7 of every build-time entry is 0 (R30). -/
theorem buildEntry_bit7 (a : RomAddr) : (buildEntry a).getLsbD 7 = false := by
  unfold buildEntry
  split_ifs <;> simp

/-- The build-time contents pass the configuration check (R6, R30). -/
theorem Memory.admitted_nil : Memory.admitted [] = true := by
  have h : ∀ a : RomAddr, (!(Memory.byteAt [] a).getLsbD 7) = true := fun a => by
    rw [Memory.byteAt_nil, buildEntry_bit7]; rfl
  simp only [Memory.admitted, tablesAdmitted, List.all_eq_true.mpr fun a _ => h a]
  decide

/-- The configuration check, said as the rules say it (R6, R30). -/
theorem tablesAdmitted_iff (f : RomAddr → Byte) :
    tablesAdmitted f = true ↔
      (∀ a, (f a).getLsbD 7 = false) ∧ f (romAddr .upper ⟨0, by decide⟩) = 0x77#8 ∧
        f (romAddr .digit ⟨8, by decide⟩) = 0x7F#8 ∧ f (romAddr .spec ⟨5, by decide⟩) = 0x00#8 := by
  simp [tablesAdmitted, and_assoc]

/-- The configuration check on a memory, by its readings. -/
theorem Memory.admitted_iff (m : Memory) :
    m.admitted = true ↔
      (∀ a, (m.byteAt a).getLsbD 7 = false) ∧ romRead m .upper ⟨0, by decide⟩ = 0x77#8 ∧
        romRead m .digit ⟨8, by decide⟩ = 0x7F#8 ∧ romRead m .spec ⟨5, by decide⟩ = 0x00#8 :=
  tablesAdmitted_iff _

/-- Canonical form, as its two parts. -/
theorem Memory.wf_iff (m : Memory) :
    m.wf = true ↔ m.Pairwise (fun x y => x.1 < y.1) ∧ ∀ x ∈ m, cellDiffers x = true := by
  simp [Memory.wf]

/-- What reading the memory of given contents answers, for any list of addresses with no repeat. -/
theorem lookup_listed (f : RomAddr → Byte) (a : RomAddr) (as : List RomAddr) :
    (as.filterMap (fun b => if f b = buildEntry b then none else some (b.val, f b))).lookup a.val =
      if a ∈ as ∧ f a ≠ buildEntry a then some (f a) else none := by
  induction as with
  | nil => rfl
  | cons b bs ih =>
    by_cases hb : f b = buildEntry b
    · rw [List.filterMap_cons_none (by simp [hb]), ih]
      by_cases hab : a = b
      · subst hab; simp [hb]
      · simp [hab]
    · rw [List.filterMap_cons_some (b := (b.val, f b)) (by simp [hb]), List.lookup_cons]
      by_cases hab : a = b
      · subst hab; simp [hb]
      · have hv : (a.val == b.val) = false := beq_eq_false_iff_ne.mpr fun h => hab (Fin.ext h)
        rw [hv, ih]; simp [hab]

/-- Reading the memory of given contents gives those contents. -/
@[simp] theorem Memory.byteAt_ofContents (f : RomAddr → Byte) (a : RomAddr) :
    (Memory.ofContents f).byteAt a = f a := by
  rw [Memory.byteAt, Memory.ofContents, lookup_listed]
  by_cases h : f a = buildEntry a <;> simp [h]

/-- The memory of given contents is canonical. -/
theorem Memory.wf_ofContents (f : RomAddr → Byte) : (Memory.ofContents f).wf = true := by
  rw [Memory.wf_iff]
  refine ⟨?_, fun x hx => ?_⟩
  · refine List.Pairwise.filterMap _ ?_ (List.pairwise_lt_finRange Config.romSize)
    intro a b hab x hx y hy
    simp only [Option.ite_none_left_eq_some, Option.some.injEq] at hx hy
    simpa [← hx.2, ← hy.2] using hab
  · simp only [Memory.ofContents, List.mem_filterMap, Option.ite_none_left_eq_some, Option.some.injEq] at hx
    obtain ⟨a, -, hne, rfl⟩ := hx
    simpa [cellDiffers] using hne

/-- Reading an entry of a table of given contents. -/
@[simp] theorem romRead_ofContents (f : RomAddr → Byte) (t : RomTable) (i : Fin t.size) :
    romRead (Memory.ofContents f) t i = f (romAddr t i) := Memory.byteAt_ofContents f _

end Sys2Proof.Machine
end

