-- ==== Sys2Proof/Laws/State.lean ====
section
/-! SUPPORT. One lemma for each field and each update of State, so that no proof unfolds a record update. -/

namespace Sys2Proof.Machine

section
variable (a d : Bool) (ch v : Byte) (cp : CodePoint) (t : RomTable) (i : Fin t.size) (s : State)

@[simp] theorem State.present_mem : (s.present a d ch cp).mem = s.mem := rfl
@[simp] theorem State.present_srcSel : (s.present a d ch cp).srcSel = a := rfl
@[simp] theorem State.present_dpEn : (s.present a d ch cp).dpEn = d := rfl
@[simp] theorem State.present_chIn : (s.present a d ch cp).chIn = ch := rfl
@[simp] theorem State.present_cpIn : (s.present a d ch cp).cpIn = cp := rfl
@[simp] theorem State.present_segOut : (s.present a d ch cp).segOut = s.segOut := rfl
@[simp] theorem State.present_program : (s.present a d ch cp).program = s.program := rfl
@[simp] theorem State.present_outputs : (s.present a d ch cp).outputs = s.outputs := rfl

@[simp] theorem State.drive_mem : (s.drive v).mem = s.mem := rfl
@[simp] theorem State.drive_srcSel : (s.drive v).srcSel = s.srcSel := rfl
@[simp] theorem State.drive_dpEn : (s.drive v).dpEn = s.dpEn := rfl
@[simp] theorem State.drive_chIn : (s.drive v).chIn = s.chIn := rfl
@[simp] theorem State.drive_cpIn : (s.drive v).cpIn = s.cpIn := rfl
@[simp] theorem State.drive_segOut : (s.drive v).segOut = v := rfl
@[simp] theorem State.drive_program : (s.drive v).program = s.program := rfl
@[simp] theorem State.drive_outputs : (s.drive v).outputs = s.outputs := rfl

@[simp] theorem State.answer_mem : (s.answer v).mem = s.mem := rfl
@[simp] theorem State.answer_srcSel : (s.answer v).srcSel = s.srcSel := rfl
@[simp] theorem State.answer_dpEn : (s.answer v).dpEn = s.dpEn := rfl
@[simp] theorem State.answer_chIn : (s.answer v).chIn = s.chIn := rfl
@[simp] theorem State.answer_cpIn : (s.answer v).cpIn = s.cpIn := rfl
@[simp] theorem State.answer_segOut : (s.answer v).segOut = v := rfl
@[simp] theorem State.answer_program : (s.answer v).program = s.program := rfl
@[simp] theorem State.answer_outputs : (s.answer v).outputs = s.outputs ++ [v] := rfl

@[simp] theorem State.lookupEntry_mem : (s.lookupEntry t i).mem = s.mem := rfl
@[simp] theorem State.lookupEntry_srcSel : (s.lookupEntry t i).srcSel = s.srcSel := rfl
@[simp] theorem State.lookupEntry_dpEn : (s.lookupEntry t i).dpEn = s.dpEn := rfl
@[simp] theorem State.lookupEntry_chIn : (s.lookupEntry t i).chIn = s.chIn := rfl
@[simp] theorem State.lookupEntry_cpIn : (s.lookupEntry t i).cpIn = s.cpIn := rfl
@[simp] theorem State.lookupEntry_segOut : (s.lookupEntry t i).segOut = dpMerge (romRead s.mem t i) s.dpEn := rfl
@[simp] theorem State.lookupEntry_program : (s.lookupEntry t i).program = s.program := rfl
@[simp] theorem State.lookupEntry_outputs : (s.lookupEntry t i).outputs = s.outputs := rfl

@[simp] theorem State.lookupBlank_mem : (s.lookupBlank).mem = s.mem := rfl
@[simp] theorem State.lookupBlank_srcSel : (s.lookupBlank).srcSel = s.srcSel := rfl
@[simp] theorem State.lookupBlank_dpEn : (s.lookupBlank).dpEn = s.dpEn := rfl
@[simp] theorem State.lookupBlank_chIn : (s.lookupBlank).chIn = s.chIn := rfl
@[simp] theorem State.lookupBlank_cpIn : (s.lookupBlank).cpIn = s.cpIn := rfl
@[simp] theorem State.lookupBlank_segOut : (s.lookupBlank).segOut = dpMerge 0x00#8 s.dpEn := rfl
@[simp] theorem State.lookupBlank_program : (s.lookupBlank).program = s.program := rfl
@[simp] theorem State.lookupBlank_outputs : (s.lookupBlank).outputs = s.outputs := rfl

end

end Sys2Proof.Machine
end

