-- ==== Sys2Proof/Laws/Ops.lean ====
section
/-! SUPPORT. One lemma for each shared operation, saying what it answers. -/

namespace Sys2Proof.Machine

/-- Bit 7 of a merged pattern is the decimal-point flag (R69). -/
@[simp] theorem dpMerge_bit7 (b : Byte) (d : Bool) : (dpMerge b d)[7] = d := by
  revert b d; decide

/-- Bits 6:0 of a merged pattern are those of the base pattern (R69). -/
theorem dpMerge_low (b : Byte) (d : Bool) : dpMerge b d &&& 0x7F#8 = b &&& 0x7F#8 := by
  revert b d; decide

/-- Merging no decimal point changes no pattern whose bit 7 is 0 (R69). -/
theorem dpMerge_false {b : Byte} (h : b.getLsbD 7 = false) : dpMerge b false = b := by
  revert b; decide

/-- Merging the decimal point sets bit 7 (R66, R68). -/
theorem dpMerge_true {b : Byte} : dpMerge b true = dpMerge b false ||| 0x80#8 := by
  revert b; decide

/-- The base pattern of an uppercase letter (R51, R61). -/
theorem base_upper (m : Memory) {c : Byte} (h : classify c = .upper) :
    base m c = romRead m .upper ⟨anchorIndex 0x41#8 c, upper_index_lt h⟩ := by
  unfold base; split <;> first | rfl | exact absurd (h.symm.trans (by assumption)) (by decide)

/-- The base pattern of a lowercase letter (R52, R61). -/
theorem base_lower (m : Memory) {c : Byte} (h : classify c = .lower) :
    base m c = romRead m .lower ⟨anchorIndex 0x61#8 c, lower_index_lt h⟩ := by
  unfold base; split <;> first | rfl | exact absurd (h.symm.trans (by assumption)) (by decide)

/-- The base pattern of a digit (R53, R61). -/
theorem base_digit (m : Memory) {c : Byte} (h : classify c = .digit) :
    base m c = romRead m .digit ⟨anchorIndex 0x30#8 c, digit_index_lt h⟩ := by
  unfold base; split <;> first | rfl | exact absurd (h.symm.trans (by assumption)) (by decide)

/-- The base pattern of a special character (R54 to R59, R61). -/
theorem base_special (m : Memory) {c : Byte} (h : classify c = .special) :
    base m c = romRead m .spec (specIndex c) := by
  unfold base; split <;> first | rfl | exact absurd (h.symm.trans (by assumption)) (by decide)

/-- The base pattern of every other character (R60, R61). -/
theorem base_none (m : Memory) {c : Byte} (h : classify c = .none) : base m c = 0x00#8 := by
  unfold base; split <;> first | rfl | exact absurd (h.symm.trans (by assumption)) (by decide)

/-- A base pattern is one ROM entry or the all-off pattern: a request reads at most one entry (R61). -/
theorem base_cases (m : Memory) (c : Byte) :
    (∃ t i, base m c = romRead m t i) ∨ (classify c = .none ∧ base m c = 0x00#8) := by
  cases h : classify c with
  | upper => exact .inl ⟨_, _, base_upper m h⟩
  | lower => exact .inl ⟨_, _, base_lower m h⟩
  | digit => exact .inl ⟨_, _, base_digit m h⟩
  | special => exact .inl ⟨_, _, base_special m h⟩
  | none => exact .inr ⟨rfl, base_none m h⟩

/-- The base pattern depends on the ROM by its readings alone. -/
theorem base_congr {m m' : Memory} (h : ∀ a, m.byteAt a = m'.byteAt a) (c : Byte) : base m c = base m' c := by
  have hr : ∀ t i, romRead m t i = romRead m' t i := fun t i => h _
  unfold base; split <;> simp [hr]

/-- A truncation made from any outside part meets the constraint (R70). -/
theorem cpTruncBy_of_le {w : Nat} (g : BitVec w → Byte) {cp : BitVec w} (h : cp.toNat ≤ 127) :
    cpTruncBy g cp = cp.setWidth 8 := by
  simp [cpTruncBy, h]

/-- Elsewhere it is the outside part (R70). -/
theorem cpTruncBy_of_gt {w : Nat} (g : BitVec w → Byte) {cp : BitVec w} (h : 127 < cp.toNat) :
    cpTruncBy g cp = g cp := by
  simp [cpTruncBy, Nat.not_le.mpr h]

/-- `CP_WIDTH` is at least 8 (R6). -/
theorem eight_le_cpWidth : 8 ≤ Config.cpWidth := Nat.le_add_right 8 _

/-- A number below 256 fits in a code point. -/
theorem toNat_ofNat_cpWidth {n : Nat} (h : n < 256) : (BitVec.ofNat Config.cpWidth n).toNat = n := by
  rw [BitVec.toNat_ofNat]
  exact Nat.mod_eq_of_lt (Nat.lt_of_lt_of_le h (Nat.pow_le_pow_right (n := 2) (by decide) eight_le_cpWidth))

/-- `CP_TRUNC` of a number in the constrained range is that number (R70). -/
theorem cpTrunc_ofNat {n : Nat} (h : n ≤ 127) : cpTrunc (BitVec.ofNat Config.cpWidth n) = BitVec.ofNat 8 n := by
  have hn : (BitVec.ofNat Config.cpWidth n).toNat = n := toNat_ofNat_cpWidth (by omega)
  rw [cpTrunc, cpTruncBy_of_le _ (by omega)]
  apply BitVec.eq_of_toNat_eq
  rw [BitVec.toNat_setWidth, hn, BitVec.toNat_ofNat]

/-- The unselected code point has no part in the effective character (R25, R41). -/
@[simp] theorem effectiveChar_false {w : Nat} (f : BitVec w → Byte) (ch : Byte) (cp : BitVec w) :
    effectiveChar f false ch cp = ch := rfl

/-- The unselected character has no part in the effective character (R25, R41). -/
@[simp] theorem effectiveChar_true {w : Nat} (f : BitVec w → Byte) (ch : Byte) (cp : BitVec w) :
    effectiveChar f true ch cp = f cp := rfl

/-- `op[1]` is `src_sel` (R39). -/
@[simp] theorem opOf_bit1 (a d : Bool) : (opOf a d)[1] = a := by revert a d; decide

/-- `op[0]` is `dp_en` (R39). -/
@[simp] theorem opOf_bit0 (a d : Bool) : (opOf a d)[0] = d := by revert a d; decide

/-- `op` is its two bits. -/
theorem opOf_bits (op : BitVec 2) : opOf (op.getLsbD 1) (op.getLsbD 0) = op := by revert op; decide

end Sys2Proof.Machine
end

