-- ==== Sys2Proof/Laws/Exec.lean ====
section
/-! SUPPORT. What `exec` and `step` can do, said once. -/

namespace Sys2Proof.Machine

/-- A request presents its ports and answers with its output (R73). -/
theorem exec_decodeReq (r : ReqWord) (s : State) :
    exec (decodeReq r) s =
      .next ((s.present (r.op.getLsbD 1) (r.op.getLsbD 0) r.ch r.cp).answer (requestOutput s.mem r)) := by
  unfold decodeReq requestOutput segEncode
  split <;> simp only [exec, *] <;> rfl

/-- Everything an instruction can do: a request presents ports and answers, a `CHAR` row drives `seg_out`. -/
theorem exec_cases (i : Instr) (s : State) :
    (∃ a d ch cp v, exec i s = .next ((s.present a d ch cp).answer v)) ∨ (∃ v, exec i s = .next (s.drive v)) := by
  cases i
  case encChar => exact .inl ⟨_, _, _, _, _, rfl⟩
  case encCharDp => exact .inl ⟨_, _, _, _, _, rfl⟩
  case encCp => exact .inl ⟨_, _, _, _, _, rfl⟩
  case encCpDp => exact .inl ⟨_, _, _, _, _, rfl⟩
  all_goals exact .inr ⟨_, rfl⟩

/-- A row drives the base pattern of its own character: the row list and the classifier agree (R42, R61). -/
theorem exec_decodeChar (c : Byte) (s : State) :
    exec (decodeChar c) s = .next (s.drive (dpMerge (base s.mem c) s.dpEn)) := by
  have hc : c = BitVec.ofNat 8 c.toNat := by simp
  have hlt : c.toNat < 256 := c.isLt
  generalize c.toNat = n at hc hlt
  subst hc
  interval_cases n <;> rfl

/-- A step with a request waiting runs that request. -/
theorem step_request (r : ReqWord) (rest : List ReqWord) (s : State) (h : s.program = r :: rest) :
    step s = exec (decodeReq r) { s with program := rest } := by
  unfold step fetch; rw [h]; rfl

/-- A step with no request waiting looks up the request standing on the ports. -/
theorem step_standing (s : State) (h : s.program = []) : step s = exec (decodeChar s.effective) s := by
  unfold step fetch; rw [h]; rfl

/-- The outputs given and those of the requests waiting, in order, stay the same through a step with a request waiting
(R93). -/
theorem outputs_of_step_request (r : ReqWord) (rest : List ReqWord) (s : State) (h : s.program = r :: rest) :
    ∃ t, step s = .next t ∧ t.program = rest ∧ t.mem = s.mem ∧
      t.outputs ++ t.program.map (requestOutput t.mem) = s.outputs ++ s.program.map (requestOutput s.mem) := by
  refine ⟨_, (step_request r rest s h).trans (exec_decodeReq _ _), rfl, rfl, ?_⟩
  simp [h]

/-- A placed word is the word that is fetched. -/
theorem fetch_placeWord (w : TableWord) (s : State) : (fetch (placeWord w s)).1 = w := by
  cases w <;> rfl

/-- A run takes its first step first. -/
theorem run_succ_of_step {s t : State} (h : step s = .next t) (k : Nat) :
    Host.Core.run Sys2Proof.core (k + 1) s = Host.Core.run Sys2Proof.core k t := by
  have h' : Sys2Proof.core.step s = .next t := h
  simp only [Host.Core.run, h']

end Sys2Proof.Machine
end

