-- ==== Sys2Proof/Laws/PerInstr.lean ====
section
/-! SUPPORT. Statements made once per constructor of `Instr`. The family RoundTrip: the decoder gives back a
well-formed instruction from the encoder's words. -/

namespace Sys2Proof.Laws

/-- The decoder reads the instruction back from its words. -/
def RoundTrip.Statement (i : Instr) : Prop := i.wf = true → decode (encode i) = i

theorem RoundTrip.encChar (ch : Byte) (cp : CodePoint) : RoundTrip.Statement (.encChar ch cp) := fun _ =>
  decode_encode_encChar ch cp
theorem RoundTrip.encCharDp (ch : Byte) (cp : CodePoint) : RoundTrip.Statement (.encCharDp ch cp) := fun _ =>
  decode_encode_encCharDp ch cp
theorem RoundTrip.encCp (ch : Byte) (cp : CodePoint) : RoundTrip.Statement (.encCp ch cp) := fun _ =>
  decode_encode_encCp ch cp
theorem RoundTrip.encCpDp (ch : Byte) (cp : CodePoint) : RoundTrip.Statement (.encCpDp ch cp) := fun _ =>
  decode_encode_encCpDp ch cp
theorem RoundTrip.lutUpperA : RoundTrip.Statement .lutUpperA := fun _ => rfl
theorem RoundTrip.lutUpperB : RoundTrip.Statement .lutUpperB := fun _ => rfl
theorem RoundTrip.lutUpperC : RoundTrip.Statement .lutUpperC := fun _ => rfl
theorem RoundTrip.lutUpperD : RoundTrip.Statement .lutUpperD := fun _ => rfl
theorem RoundTrip.lutUpperE : RoundTrip.Statement .lutUpperE := fun _ => rfl
theorem RoundTrip.lutUpperF : RoundTrip.Statement .lutUpperF := fun _ => rfl
theorem RoundTrip.lutUpperG : RoundTrip.Statement .lutUpperG := fun _ => rfl
theorem RoundTrip.lutUpperH : RoundTrip.Statement .lutUpperH := fun _ => rfl
theorem RoundTrip.lutUpperI : RoundTrip.Statement .lutUpperI := fun _ => rfl
theorem RoundTrip.lutUpperJ : RoundTrip.Statement .lutUpperJ := fun _ => rfl
theorem RoundTrip.lutUpperK : RoundTrip.Statement .lutUpperK := fun _ => rfl
theorem RoundTrip.lutUpperL : RoundTrip.Statement .lutUpperL := fun _ => rfl
theorem RoundTrip.lutUpperM : RoundTrip.Statement .lutUpperM := fun _ => rfl
theorem RoundTrip.lutUpperN : RoundTrip.Statement .lutUpperN := fun _ => rfl
theorem RoundTrip.lutUpperO : RoundTrip.Statement .lutUpperO := fun _ => rfl
theorem RoundTrip.lutUpperP : RoundTrip.Statement .lutUpperP := fun _ => rfl
theorem RoundTrip.lutUpperQ : RoundTrip.Statement .lutUpperQ := fun _ => rfl
theorem RoundTrip.lutUpperR : RoundTrip.Statement .lutUpperR := fun _ => rfl
theorem RoundTrip.lutUpperS : RoundTrip.Statement .lutUpperS := fun _ => rfl
theorem RoundTrip.lutUpperT : RoundTrip.Statement .lutUpperT := fun _ => rfl
theorem RoundTrip.lutUpperU : RoundTrip.Statement .lutUpperU := fun _ => rfl
theorem RoundTrip.lutUpperV : RoundTrip.Statement .lutUpperV := fun _ => rfl
theorem RoundTrip.lutUpperW : RoundTrip.Statement .lutUpperW := fun _ => rfl
theorem RoundTrip.lutUpperX : RoundTrip.Statement .lutUpperX := fun _ => rfl
theorem RoundTrip.lutUpperY : RoundTrip.Statement .lutUpperY := fun _ => rfl
theorem RoundTrip.lutUpperZ : RoundTrip.Statement .lutUpperZ := fun _ => rfl
theorem RoundTrip.lutLowerA : RoundTrip.Statement .lutLowerA := fun _ => rfl
theorem RoundTrip.lutLowerB : RoundTrip.Statement .lutLowerB := fun _ => rfl
theorem RoundTrip.lutLowerC : RoundTrip.Statement .lutLowerC := fun _ => rfl
theorem RoundTrip.lutLowerD : RoundTrip.Statement .lutLowerD := fun _ => rfl
theorem RoundTrip.lutLowerE : RoundTrip.Statement .lutLowerE := fun _ => rfl
theorem RoundTrip.lutLowerF : RoundTrip.Statement .lutLowerF := fun _ => rfl
theorem RoundTrip.lutLowerG : RoundTrip.Statement .lutLowerG := fun _ => rfl
theorem RoundTrip.lutLowerH : RoundTrip.Statement .lutLowerH := fun _ => rfl
theorem RoundTrip.lutLowerI : RoundTrip.Statement .lutLowerI := fun _ => rfl
theorem RoundTrip.lutLowerJ : RoundTrip.Statement .lutLowerJ := fun _ => rfl
theorem RoundTrip.lutLowerK : RoundTrip.Statement .lutLowerK := fun _ => rfl
theorem RoundTrip.lutLowerL : RoundTrip.Statement .lutLowerL := fun _ => rfl
theorem RoundTrip.lutLowerM : RoundTrip.Statement .lutLowerM := fun _ => rfl
theorem RoundTrip.lutLowerN : RoundTrip.Statement .lutLowerN := fun _ => rfl
theorem RoundTrip.lutLowerO : RoundTrip.Statement .lutLowerO := fun _ => rfl
theorem RoundTrip.lutLowerP : RoundTrip.Statement .lutLowerP := fun _ => rfl
theorem RoundTrip.lutLowerQ : RoundTrip.Statement .lutLowerQ := fun _ => rfl
theorem RoundTrip.lutLowerR : RoundTrip.Statement .lutLowerR := fun _ => rfl
theorem RoundTrip.lutLowerS : RoundTrip.Statement .lutLowerS := fun _ => rfl
theorem RoundTrip.lutLowerT : RoundTrip.Statement .lutLowerT := fun _ => rfl
theorem RoundTrip.lutLowerU : RoundTrip.Statement .lutLowerU := fun _ => rfl
theorem RoundTrip.lutLowerV : RoundTrip.Statement .lutLowerV := fun _ => rfl
theorem RoundTrip.lutLowerW : RoundTrip.Statement .lutLowerW := fun _ => rfl
theorem RoundTrip.lutLowerX : RoundTrip.Statement .lutLowerX := fun _ => rfl
theorem RoundTrip.lutLowerY : RoundTrip.Statement .lutLowerY := fun _ => rfl
theorem RoundTrip.lutLowerZ : RoundTrip.Statement .lutLowerZ := fun _ => rfl
theorem RoundTrip.lutDigit0 : RoundTrip.Statement .lutDigit0 := fun _ => rfl
theorem RoundTrip.lutDigit1 : RoundTrip.Statement .lutDigit1 := fun _ => rfl
theorem RoundTrip.lutDigit2 : RoundTrip.Statement .lutDigit2 := fun _ => rfl
theorem RoundTrip.lutDigit3 : RoundTrip.Statement .lutDigit3 := fun _ => rfl
theorem RoundTrip.lutDigit4 : RoundTrip.Statement .lutDigit4 := fun _ => rfl
theorem RoundTrip.lutDigit5 : RoundTrip.Statement .lutDigit5 := fun _ => rfl
theorem RoundTrip.lutDigit6 : RoundTrip.Statement .lutDigit6 := fun _ => rfl
theorem RoundTrip.lutDigit7 : RoundTrip.Statement .lutDigit7 := fun _ => rfl
theorem RoundTrip.lutDigit8 : RoundTrip.Statement .lutDigit8 := fun _ => rfl
theorem RoundTrip.lutDigit9 : RoundTrip.Statement .lutDigit9 := fun _ => rfl
theorem RoundTrip.lutSpecEqual : RoundTrip.Statement .lutSpecEqual := fun _ => rfl
theorem RoundTrip.lutSpecMinus : RoundTrip.Statement .lutSpecMinus := fun _ => rfl
theorem RoundTrip.lutSpecUnderscore : RoundTrip.Statement .lutSpecUnderscore := fun _ => rfl
theorem RoundTrip.lutSpecApostrophe : RoundTrip.Statement .lutSpecApostrophe := fun _ => rfl
theorem RoundTrip.lutSpecQuote : RoundTrip.Statement .lutSpecQuote := fun _ => rfl
theorem RoundTrip.lutSpecSpace : RoundTrip.Statement .lutSpecSpace := fun _ => rfl
theorem RoundTrip.lutNone (c : Byte) : RoundTrip.Statement (.lutNone c) := fun h =>
  decodeChar_of_not_tableCode c (by simpa [Instr.wf] using h)

end Sys2Proof.Laws
end

