-- ==== Sys2Proof/Tests/RefRom.lean ====
section
/-! SUPPORT. REF_ROM, the reference tables of 93_implementation_defined.md section 3. They are for smoke tests only
(decision D21): no statement rests on them. -/

namespace Sys2Proof.Tests

open Sys2Proof.Machine

def refUpper : List Byte := [
  0x77#8, 0x7C#8, 0x39#8, 0x5E#8, 0x79#8, 0x71#8, 0x3D#8, 0x76#8, 0x30#8, 0x1E#8, 0x75#8, 0x38#8, 0x15#8,
  0x37#8, 0x3F#8, 0x73#8, 0x67#8, 0x50#8, 0x6D#8, 0x78#8, 0x3E#8, 0x1C#8, 0x2A#8, 0x76#8, 0x6E#8, 0x5B#8]

def refLower : List Byte := [
  0x5F#8, 0x7C#8, 0x58#8, 0x5E#8, 0x7B#8, 0x71#8, 0x6F#8, 0x74#8, 0x10#8, 0x0E#8, 0x75#8, 0x30#8, 0x54#8,
  0x54#8, 0x5C#8, 0x73#8, 0x67#8, 0x50#8, 0x6D#8, 0x78#8, 0x1C#8, 0x1C#8, 0x2A#8, 0x76#8, 0x6E#8, 0x5B#8]

def refDigit : List Byte := [
  0x3F#8, 0x06#8, 0x5B#8, 0x4F#8, 0x66#8, 0x6D#8, 0x7D#8, 0x07#8, 0x7F#8, 0x6F#8]

def refSpec : List Byte := [
  0x48#8, 0x40#8, 0x08#8, 0x02#8, 0x22#8, 0x00#8]

/-- REF_ROM by address, in the order of R29. -/
def refRom (a : RomAddr) : Byte := (refUpper ++ refLower ++ refDigit ++ refSpec).getD a.val 0x00#8

/-- REF_ROM with the zeroed lowercase table (90_conflicts.md C1). -/
def refRomZeroedLower (a : RomAddr) : Byte := if 26 ≤ a.val ∧ a.val < 52 then 0x00#8 else refRom a

/-- A contents function with one entry replaced. -/
def withEntry (f : RomAddr → Byte) (n : Nat) (v : Byte) (a : RomAddr) : Byte := if a.val = n then v else f a

end Sys2Proof.Tests
end

