-- ==== Sys2Proof/Tests/Slice0.lean ====
section
/-! SUPPORT. The model's own tests. Expected values are the spec's vectors (95_test_vectors.md: W, V, O, K) or its
tables, never the model's own answers. Then a witness for every statement that has hypotheses. -/

namespace Sys2Proof.Tests

open Sys2Proof.Machine

/-! ### Well-formedness: an ill-formed term for the one check there is -/

theorem test_wf_refuses_default_row_at_A : (Instr.lutNone 0x41#8).wf = false := by decide
theorem test_wf_refuses_default_row_at_every_other_class :
    ([0x5A#8, 0x61#8, 0x7A#8, 0x30#8, 0x39#8, 0x3D#8, 0x2D#8, 0x5F#8, 0x27#8, 0x22#8, 0x20#8].map
      fun c => (Instr.lutNone c).wf) = List.replicate 11 false := by decide
theorem test_wf_takes_default_row_at_question_mark : (Instr.lutNone 0x3F#8).wf = true := by decide

/-! ### Decoding: every row's word, written out from its encoding in the opcode table -/

theorem test_decode_requests (ch : Byte) (cp : CodePoint) :
    [0b00#2, 0b01#2, 0b10#2, 0b11#2].map (fun op => decode (.req ⟨op, ch, cp⟩)) =
      [.encChar ch cp, .encCharDp ch cp, .encCp ch cp, .encCpDp ch cp] := by
  simp [decode, decodeReq]

theorem test_decode_upper_rows :
    [
      0b01000001#8, 0b01000010#8, 0b01000011#8, 0b01000100#8, 0b01000101#8, 0b01000110#8,
      0b01000111#8, 0b01001000#8, 0b01001001#8, 0b01001010#8, 0b01001011#8, 0b01001100#8,
      0b01001101#8, 0b01001110#8, 0b01001111#8, 0b01010000#8, 0b01010001#8, 0b01010010#8,
      0b01010011#8, 0b01010100#8, 0b01010101#8, 0b01010110#8, 0b01010111#8, 0b01011000#8,
      0b01011001#8, 0b01011010#8].map (fun c => decode (.char c)) = [
      .lutUpperA, .lutUpperB, .lutUpperC, .lutUpperD, .lutUpperE, .lutUpperF,
      .lutUpperG, .lutUpperH, .lutUpperI, .lutUpperJ, .lutUpperK, .lutUpperL,
      .lutUpperM, .lutUpperN, .lutUpperO, .lutUpperP, .lutUpperQ, .lutUpperR,
      .lutUpperS, .lutUpperT, .lutUpperU, .lutUpperV, .lutUpperW, .lutUpperX,
      .lutUpperY, .lutUpperZ] := by decide +kernel

theorem test_decode_lower_rows :
    [
      0b01100001#8, 0b01100010#8, 0b01100011#8, 0b01100100#8, 0b01100101#8, 0b01100110#8,
      0b01100111#8, 0b01101000#8, 0b01101001#8, 0b01101010#8, 0b01101011#8, 0b01101100#8,
      0b01101101#8, 0b01101110#8, 0b01101111#8, 0b01110000#8, 0b01110001#8, 0b01110010#8,
      0b01110011#8, 0b01110100#8, 0b01110101#8, 0b01110110#8, 0b01110111#8, 0b01111000#8,
      0b01111001#8, 0b01111010#8].map (fun c => decode (.char c)) = [
      .lutLowerA, .lutLowerB, .lutLowerC, .lutLowerD, .lutLowerE, .lutLowerF,
      .lutLowerG, .lutLowerH, .lutLowerI, .lutLowerJ, .lutLowerK, .lutLowerL,
      .lutLowerM, .lutLowerN, .lutLowerO, .lutLowerP, .lutLowerQ, .lutLowerR,
      .lutLowerS, .lutLowerT, .lutLowerU, .lutLowerV, .lutLowerW, .lutLowerX,
      .lutLowerY, .lutLowerZ] := by decide +kernel

theorem test_decode_digit_rows :
    [
      0b00110000#8, 0b00110001#8, 0b00110010#8, 0b00110011#8, 0b00110100#8, 0b00110101#8,
      0b00110110#8, 0b00110111#8, 0b00111000#8, 0b00111001#8].map (fun c => decode (.char c)) = [
      .lutDigit0, .lutDigit1, .lutDigit2, .lutDigit3, .lutDigit4, .lutDigit5,
      .lutDigit6, .lutDigit7, .lutDigit8, .lutDigit9] := by decide +kernel

theorem test_decode_spec_rows :
    [
      0b00111101#8, 0b00101101#8, 0b01011111#8, 0b00100111#8, 0b00100010#8, 0b00100000#8].map (fun c => decode (.char c)) = [
      .lutSpecEqual, .lutSpecMinus, .lutSpecUnderscore, .lutSpecApostrophe, .lutSpecQuote, .lutSpecSpace] := by decide +kernel

theorem test_decode_default_row : decode (.char 0b00111111#8) = .lutNone 0b00111111#8 := by decide +kernel

/-- The opcode table's numbering, as the host gives it: `match` of a row of each format, and of row 'Z' with the
reader's spurious `index` bit 25 set. -/
theorem test_table_words :
    decodeTableWord 8 0x00 = some (.encChar 0x00#8 0#_) ∧ decodeTableWord 8 0x01 = some (.encCharDp 0x00#8 0#_) ∧
    decodeTableWord 8 0x02 = some (.encCp 0x00#8 0#_) ∧ decodeTableWord 8 0x03 = some (.encCpDp 0x00#8 0#_) ∧
    decodeTableWord 8 0x41 = some .lutUpperA ∧ decodeTableWord 32 0x0200005A = some .lutUpperZ ∧
    decodeTableWord 8 0x3F = some (.lutNone 0x3F#8) ∧ decodeTableWord 0 0 = some (.lutNone 0x00#8) := by
  refine ⟨?_, ?_, ?_, ?_, rfl, rfl, rfl, rfl⟩ <;> simp [decodeTableWord, tableWord, decode, decodeReq]

/-- A word put where the next step takes it is the one that step runs. -/
theorem test_fetch_word_runs :
    step (State.reset.withFetchWord 8 0x01) = exec (.encCharDp 0x00#8 0#_) State.reset ∧
    step (State.reset.withFetchWord 8 0x38) = exec .lutDigit8 (State.reset.withFetchWord 8 0x38) := ⟨rfl, rfl⟩

/-! ### Running: the output of one step -/

/-- What a step leaves on `seg_out`. -/
def segOf : Host.Outcome State Fault Refusal → Option Byte
  | .next t => some t.segOut
  | .fault _ => none
  | .refused _ => none

/-- A state with given tables and `dp_en`, every other port away from its reset value. -/
def testState (m : Memory) (d : Bool) : State :=
  { State.reset with mem := m, dpEn := d, srcSel := true, chIn := 0x39#8, segOut := 0xA5#8, outputs := [0x11#8] }

/-- W1, W3, W4, W5: the source's worked examples, with the tables as built. -/
theorem test_enc_char_source_examples :
    [0x41#8, 0x38#8, 0x20#8, 0x3F#8].map (fun c => segOf (exec (.encChar c 0#_) (testState [] true))) =
      [some 0x77#8, some 0x7F#8, some 0x00#8, some 0x00#8] := by decide +kernel

/-- W2, O2, O3, O4. -/
theorem test_enc_char_dp :
    [0x38#8, 0x41#8, 0x3F#8, 0x20#8].map (fun c => segOf (exec (.encCharDp c 0#_) (testState [] false))) =
      [some 0xFF#8, some 0xF7#8, some 0x80#8, some 0x80#8] := by decide +kernel

/-- V1, V4, V5, V8, V9, V13, V20 to V30: the boundary and bit-7 characters are blank. -/
theorem test_enc_char_none_vectors :
    [0x40#8, 0x5B#8, 0x60#8, 0x7B#8, 0x2F#8, 0x3A#8, 0x2E#8, 0x1F#8, 0x21#8, 0x00#8, 0x7F#8, 0x80#8, 0xC1#8, 0xB8#8,
      0xFF#8, 0x3C#8, 0x3E#8].map (fun c => segOf (exec (.encChar c 0#_) (testState [] true))) =
      List.replicate 17 (some 0x00#8) := by decide +kernel

/-- V3, V6, V7, V10, V12, V14 to V18 under REF_ROM: the columns for op=00. -/
theorem test_enc_char_ref_rom_vectors :
    [0x5A#8, 0x61#8, 0x7A#8, 0x30#8, 0x39#8, 0x3D#8, 0x2D#8, 0x5F#8, 0x27#8, 0x22#8].map
      (fun c => dpMerge (base (Memory.ofContents refRom) c) false) =
      [0x5B#8, 0x5F#8, 0x5B#8, 0x3F#8, 0x6F#8, 0x48#8, 0x40#8, 0x08#8, 0x02#8, 0x22#8] := by
  have h : ∀ t i, romRead (Memory.ofContents refRom) t i = refRom (romAddr t i) := romRead_ofContents refRom
  simp only [List.map, base_upper _ (show classify 0x5A#8 = .upper by decide),
    base_lower _ (show classify 0x61#8 = .lower by decide), base_lower _ (show classify 0x7A#8 = .lower by decide),
    base_digit _ (show classify 0x30#8 = .digit by decide), base_digit _ (show classify 0x39#8 = .digit by decide),
    base_special _ (show classify 0x3D#8 = .special by decide),
    base_special _ (show classify 0x2D#8 = .special by decide),
    base_special _ (show classify 0x5F#8 = .special by decide),
    base_special _ (show classify 0x27#8 = .special by decide),
    base_special _ (show classify 0x22#8 = .special by decide), h]
  decide +kernel

/-- O21: op=01 ch=0x39 under REF_ROM. -/
theorem test_enc_char_dp_ref_rom : segOf (exec (.encCharDp 0x39#8 0#_) (testState (Memory.ofContents refRom) false)) =
    some 0xEF#8 := by
  show some (dpMerge (romRead (Memory.ofContents refRom) .digit ⟨9, by decide⟩) true) = _
  rw [romRead_ofContents]; rfl

/-- O5, O8, O10, O16, O17: code points in 0..127, whatever the truncation elsewhere; the unselected operand differs. -/
theorem test_enc_cp_in_range :
    segOf (exec (.encCp 0x30#8 (BitVec.ofNat _ 0x41)) (testState [] true)) = some 0x77#8 ∧
    segOf (exec (.encCp 0x41#8 (BitVec.ofNat _ 0x38)) (testState [] true)) = some 0x7F#8 ∧
    segOf (exec (.encCp 0x41#8 (BitVec.ofNat _ 0x7F)) (testState [] true)) = some 0x00#8 := by
  refine ⟨?_, ?_, ?_⟩ <;>
    (show some (dpMerge (base [] (cpTrunc _)) false) = _; rw [cpTrunc_ofNat (by decide)]; decide +kernel)

/-- O6, O9, and the integer 8 of P2. -/
theorem test_enc_cp_dp_in_range :
    segOf (exec (.encCpDp 0x30#8 (BitVec.ofNat _ 0x38)) (testState [] false)) = some 0xFF#8 ∧
    segOf (exec (.encCpDp 0x41#8 (BitVec.ofNat _ 0x20)) (testState [] false)) = some 0x80#8 ∧
    segOf (exec (.encCpDp 0x41#8 (BitVec.ofNat _ 0x08)) (testState [] false)) = some 0x80#8 := by
  refine ⟨?_, ?_, ?_⟩ <;>
    (show some (dpMerge (base [] (cpTrunc _)) true) = _; rw [cpTrunc_ofNat (by decide)]; decide +kernel)

/-- O11 to O15: CP_WIDTH = 16 and the default CP_TRUNC, through the request function. -/
theorem test_encode_default_truncation :
    [segEncode cpTruncDefault [] 0b10#2 0x00#8 0x0141#16, segEncode cpTruncDefault [] 0b10#2 0x00#8 0xFF41#16,
      segEncode cpTruncDefault [] 0b11#2 0x00#8 0x0100#16, segEncode cpTruncDefault [] 0b10#2 0x00#8 0x00C1#16,
      segEncode cpTruncDefault [] 0b10#2 0x00#8 0xFFFF#16] = [0x77#8, 0x77#8, 0x80#8, 0x00#8, 0x00#8] := by
  decide +kernel

/-- O11 under K6: an admitted truncation that is 0x00 above 127 gives 0x00. -/
theorem test_encode_other_truncation :
    segEncode (cpTruncBy fun _ => 0x00#8) [] 0b10#2 0x00#8 0x0141#16 = 0x00#8 := by decide +kernel

/-- The UPPER rows under REF_ROM, with dp_en standing at 0: the table of 93_implementation_defined.md. -/
theorem test_upper_rows_ref_rom : ∀ k : Fin 26, (Claims.upperInstrs[k.val]?).bind
      (fun i => segOf (exec i (testState (Memory.ofContents refRom) false))) =
    (refUpper[k.val]?).map (fun b => b) := by
  rintro ⟨n, hn⟩
  interval_cases n <;>
    (show some (dpMerge (romRead (Memory.ofContents refRom) .upper ⟨_, by decide⟩) false) = _
     rw [romRead_ofContents]; rfl)

/-- The LOWER rows under REF_ROM, with dp_en standing at 1: the table of 93_implementation_defined.md. -/
theorem test_lower_rows_ref_rom : ∀ k : Fin 26, (Claims.lowerInstrs[k.val]?).bind
      (fun i => segOf (exec i (testState (Memory.ofContents refRom) true))) =
    (refLower[k.val]?).map (fun b => b ||| 0x80#8) := by
  rintro ⟨n, hn⟩
  interval_cases n <;>
    (show some (dpMerge (romRead (Memory.ofContents refRom) .lower ⟨_, by decide⟩) true) = _
     rw [romRead_ofContents]; rfl)

/-- The DIGIT rows under REF_ROM, with dp_en standing at 0: the table of 93_implementation_defined.md. -/
theorem test_digit_rows_ref_rom : ∀ k : Fin 10, (Claims.digitInstrs[k.val]?).bind
      (fun i => segOf (exec i (testState (Memory.ofContents refRom) false))) =
    (refDigit[k.val]?).map (fun b => b) := by
  rintro ⟨n, hn⟩
  interval_cases n <;>
    (show some (dpMerge (romRead (Memory.ofContents refRom) .digit ⟨_, by decide⟩) false) = _
     rw [romRead_ofContents]; rfl)

/-- The SPECIAL rows under REF_ROM, with dp_en standing at 1: the table of 93_implementation_defined.md. -/
theorem test_spec_rows_ref_rom : ∀ k : Fin 6, (Claims.specialInstrs[k.val]?).bind
      (fun i => segOf (exec i (testState (Memory.ofContents refRom) true))) =
    (refSpec[k.val]?).map (fun b => b ||| 0x80#8) := by
  rintro ⟨n, hn⟩
  interval_cases n <;>
    (show some (dpMerge (romRead (Memory.ofContents refRom) .spec ⟨_, by decide⟩) true) = _
     rw [romRead_ofContents]; rfl)

/-- O3 and V24 for the default row, and that it leaves the ports and the output list. -/
theorem test_default_row :
    exec (.lutNone 0x7F#8) (testState [] true) = .next { testState [] true with segOut := 0x80#8 } ∧
    exec (.lutNone 0x3F#8) (testState [] false) = .next { testState [] false with segOut := 0x00#8 } := ⟨rfl, rfl⟩

/-- A request lists its output after the earlier ones and puts its own values on the ports (O16). -/
theorem test_enc_char_ports : exec (.encChar 0x41#8 0#_) (testState [] true) =
    .next { testState [] true with
      srcSel := false, dpEn := false, chIn := 0x41#8, cpIn := 0#_, segOut := 0x77#8, outputs := [0x11#8, 0x77#8] } :=
  rfl

/-! ### The configuration check (K1 to K6) -/

theorem test_check_admits : tablesAdmitted refRom = true ∧ tablesAdmitted refRomZeroedLower = true := by
  decide +kernel
theorem test_check_refuses : tablesAdmitted (withEntry refRom 1 0xFC#8) = false ∧
    tablesAdmitted (withEntry refRom 60 0x6F#8) = false ∧ tablesAdmitted (withEntry refRom 67 0x01#8) = false := by
  decide +kernel
theorem test_truncation_check :
    ¬TruncAdmitted (fun _ : BitVec 16 => 0x00#8) ∧ TruncAdmitted (cpTruncBy fun _ : BitVec 16 => 0x00#8) :=
  ⟨fun h => absurd (h 0x41#16 (by decide)) (by decide), fun _ h => cpTruncBy_of_le _ h⟩

/-! ### Segments, source calls, text -/

/-- R11: 'A' = 0x77 lights a, b, c, e, f and g. -/
theorem test_segments_of_A : [Segment.a, .b, .c, .d, .e, .f, .g, .dp].map (segmentLit 0x77#8) =
    [true, true, true, false, true, true, true, false] := by decide
/-- W7, R48. -/
theorem test_source_call (y : CodePoint) : expandCall 0x00#8 y (.patternFromCharacter 0x41#8 none) =
    expandCall 0x00#8 y (.patternFromCharacter 0x41#8 (some false)) := rfl
/-- P1 as text. -/
theorem test_text_of_P1 (y : CodePoint) : (asmProgram 0x00#8 y
      ["enc.char    'A'      ; op=00 ch=0x41".toList, "enc.char.dp '8'".toList, "ENC.CHAR ' '".toList]).toOption =
    some [⟨0b00#2, 0x41#8, y⟩, ⟨0b01#2, 0x38#8, y⟩, ⟨0b00#2, 0x20#8, y⟩] := rfl
theorem test_text_errors (y : CodePoint) :
    asmLine 0x00#8 y "enc.chr 'A'".toList = .error .unknownMnemonic ∧
    asmLine 0x00#8 y "enc.char 0x100".toList = .error .operandTooWide ∧
    asmLine 0x00#8 y "enc.char".toList = .error .badOperand ∧
    asmLine 0x00#8 y "enc.char 'A' 'B'".toList = .error .trailingText := ⟨rfl, rfl, rfl, rfl⟩

/-! ### Witnesses: a concrete case that meets the hypotheses of each statement that has any -/

theorem witness_DecodeOfEncode : (Instr.lutNone 0xFF#8).wf = true ∧ Instr.lutSpecSpace.wf = true := by decide
theorem witness_StepRuns_request :
    ({ State.reset with program := [⟨0b01#2, 0x38#8, 0#_⟩] } : State).program = ⟨0b01#2, 0x38#8, 0#_⟩ :: [] := rfl
theorem witness_StepRuns_standing : State.reset.program = [] := rfl
theorem witness_StandingInputs : (testState [] true).program = [] := rfl
theorem witness_TestOrder : Claims.classTests.reverse.Perm Claims.classTests := List.reverse_perm _
theorem witness_Signedness : 0x80 ≤ (0x80#8 : Byte).toNat ∧ 0x80 ≤ (0xFF#8 : Byte).toNat := by decide
theorem witness_admitted : (Memory.ofContents refRom).wf = true ∧ (Memory.ofContents refRom).admitted = true := by
  refine ⟨Memory.wf_ofContents _, ?_⟩
  rw [Memory.admitted, show (Memory.ofContents refRom).byteAt = refRom from funext (Memory.byteAt_ofContents _)]
  exact test_check_admits.1
theorem witness_UpperLookup : classify 0x41#8 = .upper ∧ classify 0x5A#8 = .upper := by decide
theorem witness_LowerLookup : classify 0x61#8 = .lower ∧ classify 0x7A#8 = .lower ∧
    ∀ i : Fin RomTable.lower.size, ((fun _ => 0x7F#8 : Fin RomTable.lower.size → Byte) i).getLsbD 7 = false := by
  decide
theorem witness_DigitLookup : classify 0x30#8 = .digit ∧ classify 0x39#8 = .digit := by decide
theorem witness_DigitLookup_truncation : 8 ≤ 8 ∧ TruncAdmitted (cpTruncDefault (w := 8)) :=
  ⟨Nat.le_refl _, fun _ _ => rfl⟩
theorem witness_SpecialLookup : (0x1F#8 : Byte) ∈ Claims.specialNeighbours := by decide
theorem witness_EveryOther : classify 0x00#8 = .none ∧ (0x1F#8 : Byte).toNat ≤ 0x1F ∧ classify 0xFF#8 = .none := by
  decide
theorem witness_IndexNeverWraps : classify 0x5A#8 = .upper ∧ classify 0x7A#8 = .lower ∧ classify 0x39#8 = .digit := by
  decide
theorem witness_RowsChange : Claims.isRow .lutSpecSpace = true ∧
    ∃ t, exec .lutSpecSpace (testState [] true) = .next t := ⟨rfl, _, rfl⟩
theorem witness_RequestsChange : Claims.isRow (.encCp 0x41#8 0#_) = false ∧
    ∃ t, exec (.encCp 0x41#8 0#_) (testState [] true) = .next t := ⟨rfl, _, rfl⟩
theorem witness_EncChar_clauses : classify 0x3F#8 = .none ∧ 0x80 ≤ (0x80#8 : Byte).toNat ∧
    (0x7A#8 : Byte).toNat = 0x61 + 25 ∧ Memory.admitted [] = true :=
  ⟨by decide, by decide, by decide, Memory.admitted_nil⟩
theorem witness_EncCp_clauses : classify (cpTrunc (BitVec.ofNat _ 0x08)) = .none ∧
    classify (cpTrunc (BitVec.ofNat _ 0x7F)) = .none := by
  rw [cpTrunc_ofNat (by decide), cpTrunc_ofNat (by decide)]; decide
theorem witness_DpMerge : (0x7F#8 : Byte).getLsbD 7 = false := by decide
theorem witness_CodePointAgrees : 0 ≤ 127 ∧ 127 ≤ 127 := by decide
theorem witness_OutputBits : ∃ t, step State.reset = .next t := ⟨_, rfl⟩
theorem witness_Unselected : (0b01#2).getLsbD 1 = false ∧ (0b10#2).getLsbD 1 = true := by decide
theorem witness_History : ∃ s' : State, Host.Core.run Sys2Proof.core 1
    ({ State.reset with program := [⟨0b01#2, 0x38#8, 0#_⟩] } : State) = .next s' := ⟨_, rfl⟩
theorem witness_Instances : ∀ a : RomAddr, (testState [] true).mem.byteAt a = State.reset.mem.byteAt a := fun _ => rfl
theorem witness_RomIsNeverWritten : ∃ t, exec .lutDigit8 State.reset = .next t := ⟨_, rfl⟩
theorem witness_Unrecognized : classify 0x5B#8 = .none ∧ classify 0x7B#8 = .none := by decide
theorem witness_EveryStepKeeps : Safety.Inv (testState [] true |>.drive (requestOutput [] (testState [] true).portRequest)) ∧
    ∃ t, step (testState [] true |>.drive (requestOutput [] (testState [] true).portRequest)) = .next t :=
  ⟨⟨rfl, Memory.admitted_nil, rfl⟩, _, (step_standing _ rfl).trans (exec_decodeChar _ _)⟩
theorem witness_RomMap : romAddr .spec ⟨5, Claims.spec_5⟩ = (67 : RomAddr) := rfl
theorem witness_Admitted_refused : ∃ (t : RomTable) (i : Fin t.size),
    (romRead (Memory.ofContents (withEntry refRom 1 0xFC#8)) t i).getLsbD 7 = true :=
  ⟨.upper, ⟨1, by decide⟩, by rw [romRead_ofContents]; rfl⟩
theorem witness_OneMemory : Memory.wf (Memory.ofContents refRom) = true := Memory.wf_ofContents _
/-! The assembler statement: a line that meets every hypothesis at once, then each clause at the ends of its range. -/

theorem witness_Assembler_line : Claims.blankText ['\t', ' '] ∧ Claims.writesMnemonic "eNc.ChAr".toList 0b00#2 ∧
    Claims.writesMnemonic "ENC.CP.dp".toList 0b11#2 ∧ Claims.blankText [' '] ∧ [' '] ≠ [] ∧
    Claims.endsLine [] ∧ Claims.endsLine [' '] ∧ Claims.endsLine " ; x".toList ∧
    ((0b00#2 : BitVec 2).getLsbD 1 = false ∧ (0b11#2 : BitVec 2).getLsbD 1 = true) := by
  refine ⟨by simp [Claims.blankText], by unfold Claims.writesMnemonic; decide, by unfold Claims.writesMnemonic; decide,
    by simp [Claims.blankText], by simp, ⟨[], by simp [Claims.blankText], .inl rfl⟩,
    ⟨[' '], by simp [Claims.blankText], .inl rfl⟩, ⟨[' '], by simp [Claims.blankText], .inr ⟨[' ', 'x'], rfl⟩⟩, by decide⟩
theorem witness_Assembler_literal : [';', ' ', 'z', '~'].all (fun c => c.toNat < 128 ∧ c ≠ '\'' ∧ c ≠ '\\') = true := by
  decide
theorem witness_Assembler_numbers : Claims.writesDecimal ['2', '5', '5'] 255 ∧ Claims.writesDecimal ['2', '5', '6'] 256 ∧
    Claims.writesHex "0xfF".toList 255 ∧ Claims.writesHex "0x100".toList 256 ∧ Claims.writesDecimal ['0'] 0 :=
  ⟨⟨[2, 5, 5], by decide, rfl, rfl⟩, ⟨[2, 5, 6], by decide, rfl, rfl⟩,
    ⟨[(false, 15), (true, 15)], by decide, rfl, rfl⟩, ⟨[(false, 1), (false, 0), (false, 0)], by decide, rfl, rfl⟩,
    ⟨[0], by decide, rfl, rfl⟩⟩
/-- Whatever `CP_WIDTH` is, the last number that fits and the first that does not have a decimal text. -/
theorem witness_Assembler_code_points : ∃ a b c d : List Char,
    Claims.writesDecimal a (2 ^ Config.cpWidth - 1) ∧ Claims.writesDecimal b (2 ^ Config.cpWidth) ∧
    Claims.writesDecimal c (2 ^ (Config.cpWidth - 1)) ∧ Claims.writesDecimal d (2 ^ (Config.cpWidth - 1) + 1) ∧
    2 ^ Config.cpWidth - 1 < 2 ^ Config.cpWidth := by
  have key : ∀ n : Nat, ∃ t, Claims.writesDecimal t n := by
    intro n
    induction n using Nat.strongRecOn with
    | _ n ih =>
      by_cases h : n < 10
      · exact ⟨_, [⟨n, h⟩], by simp, rfl, by simp [Claims.numberOf]⟩
      · obtain ⟨_, ds, _, rfl, h2⟩ := ih (n / 10) (by omega)
        refine ⟨_, ds ++ [⟨n % 10, by omega⟩], by simp, rfl, ?_⟩
        simp only [Claims.numberOf, List.map_append, List.foldl_append, List.map_cons, List.map_nil, List.foldl_cons,
          List.foldl_nil] at h2 ⊢
        omega
  obtain ⟨a, ha⟩ := key (2 ^ Config.cpWidth - 1)
  obtain ⟨b, hb⟩ := key (2 ^ Config.cpWidth)
  obtain ⟨c, hc⟩ := key (2 ^ (Config.cpWidth - 1))
  obtain ⟨d, hd⟩ := key (2 ^ (Config.cpWidth - 1) + 1)
  exact ⟨a, b, c, d, ha, hb, hc, hd, Nat.sub_lt (Nat.two_pow_pos _) Nat.one_pos⟩
theorem witness_LowercaseB : ∃ t, exec (.encChar 0x62#8 0#_) (testState (Memory.ofContents refRom) true) = .next t :=
  ⟨_, rfl⟩

end Sys2Proof.Tests
end

section
/-! PROOFS. The family 10_state.md: the ROM is the only storage and no run changes it, so a request's output depends on
no earlier request (R17, R18); the layout of `seg_out` (R23). -/

namespace Sys2Proof.Proofs
open Sys2Proof.Machine

/-! ### No run changes the ROM -/

/-- Every instruction completes, and none writes the ROM (R33, R74). -/
theorem exec_completes_mem (i : Instr) (s : State) : ∃ t, exec i s = .next t ∧ t.mem = s.mem := by
  rcases exec_cases i s with ⟨_, _, _, _, _, h⟩ | ⟨_, h⟩
  · exact ⟨_, h, by simp⟩
  · exact ⟨_, h, by simp⟩

/-- Taking the next word leaves the ROM as it was. -/
@[simp] theorem fetch_mem (s : State) : (fetch s).2.mem = s.mem := by
  unfold fetch
  split
  · rfl
  · rfl

/-- Every step completes, and none writes the ROM (R33, R74). -/
theorem step_completes_mem (s : State) : ∃ t, step s = .next t ∧ t.mem = s.mem := by
  obtain ⟨t, hstep, hmem⟩ := exec_completes_mem (decode (fetch s).1) (fetch s).2
  exact ⟨t, hstep, hmem.trans (fetch_mem s)⟩

/-- A run of any length ends with the ROM it began with (R33). -/
theorem run_mem {k : Nat} {s t : State} (h : Host.Core.run Sys2Proof.core k s = .next t) : t.mem = s.mem := by
  induction k generalizing s with
  | zero =>
    cases h
    rfl
  | succ k ih =>
    obtain ⟨u, hstep, hmem⟩ := step_completes_mem s
    rw [run_succ_of_step hstep] at h
    exact (ih h).trans hmem

/-! ### A request sees nothing of the state but the ROM -/

/-- A request completes with its output on `seg_out` (R73). -/
theorem exec_decodeReq_segOut (r : ReqWord) (s : State) :
    ∃ t, exec (decodeReq r) s = .next t ∧ t.segOut = requestOutput s.mem r :=
  ⟨_, exec_decodeReq r s, State.answer_segOut _ _⟩

/-- Settles O41: a request's output is a function of the ROM, and the run in between has not changed the ROM. -/
theorem outputDoesNotDependOnHistory : Obligations.OutputDoesNotDependOnHistory := by
  intro r k s s' hrun
  have hmem : s'.mem = s.mem := run_mem hrun
  obtain ⟨t, ht, hout⟩ := exec_decodeReq_segOut r s
  obtain ⟨t', ht', hout'⟩ := exec_decodeReq_segOut r s'
  refine ⟨t, t', ht, ht', ?_⟩
  rw [hout, hout', hmem]

/-! ### The layout of `seg_out` -/

/-- The merge alone decides whether DP is lit (R69). -/
@[simp] theorem segmentLit_dpMerge_dp (b : Byte) (d : Bool) : segmentLit (dpMerge b d) .dp = d :=
  dpMerge_bit7 b d

/-- DP is lit on the output of a request exactly when its `dp_en`, which is `op[0]`, is 1 (R23, R39). -/
theorem segmentLit_requestOutput_dp (m : Memory) (r : ReqWord) :
    segmentLit (requestOutput m r) .dp = r.op.getLsbD 0 :=
  segmentLit_dpMerge_dp _ _

/-- Settles O56: the eight bits by the numbering of the segments, DP by the merge at the end of every request. -/
theorem patternBitsAreSegments : Obligations.PatternBitsAreSegments := by
  refine ⟨fun v => ⟨rfl, rfl, rfl, rfl, rfl, rfl, rfl, rfl⟩, fun r s => ?_⟩
  obtain ⟨t, ht, hout⟩ := exec_decodeReq_segOut r s
  refine ⟨t, ht, ?_⟩
  rw [hout]
  exact segmentLit_requestOutput_dp s.mem r

end Sys2Proof.Proofs
end

section
/-! PROOFS. The family 20_memory.md: nothing writes the ROM (R33), and the configuration check keeps bit 7 of every
entry clear (R30). -/

namespace Sys2Proof.Proofs
open Sys2Proof.Machine

/-- An instruction ends with the ROM it began with (R33). -/
theorem exec_mem {i : Instr} {s t : State} (h : exec i s = .next t) : t.mem = s.mem := by
  obtain ⟨u, hexec, hmem⟩ := exec_completes_mem i s
  rw [hexec] at h
  cases h
  exact hmem

/-- Settles O43: neither an instruction nor a run of any length changes the ROM. -/
theorem romIsNeverWritten : Obligations.RomIsNeverWritten :=
  ⟨fun _ _ _ hexec => exec_mem hexec, fun _ _ _ hrun => run_mem hrun⟩

/-- Bit 7 of every table entry is 0 in tables that pass the configuration check (R30). -/
theorem romRead_bit7_of_admitted {m : Memory} (h : m.admitted = true) (t : RomTable) (i : Fin t.size) :
    (romRead m t i).getLsbD 7 = false := by
  obtain ⟨hbit7, -⟩ := (Memory.admitted_iff m).mp h
  exact hbit7 (romAddr t i)

/-- Settles O53: the check looks at every address, and every table entry has one; the refusal is the contrapositive. -/
theorem admittedTablesHaveBit7Clear : Obligations.AdmittedTablesHaveBit7Clear := by
  refine fun m => ⟨romRead_bit7_of_admitted, fun ⟨t, i, hset⟩ => Bool.eq_false_iff.mpr fun hadm => ?_⟩
  have hclear : (romRead m t i).getLsbD 7 = false := romRead_bit7_of_admitted hadm t i
  exact absurd (hset.symm.trans hclear) (by decide)

end Sys2Proof.Proofs
end

section
/-! PROOFS. The family 30_encoding.md: the effective character is the selected operand (R41), and every encoding has a
defined output (R44). -/

namespace Sys2Proof.Proofs
open Sys2Proof.Machine Sys2Proof.Laws

/-! ### The effective character -/

/-- The effective character as R41 writes it: `ch` where `src_sel` is 0, the truncated code point elsewhere. -/
theorem effectiveChar_eq_ite {w : Nat} (f : BitVec w → Byte) (a : Bool) (ch : Byte) (cp : BitVec w) :
    effectiveChar f a ch cp = if a = false then ch else f cp := by
  cases a
  · exact effectiveChar_false f ch cp
  · exact effectiveChar_true f ch cp

/-- Answering leaves the four values that were presented on the ports, so their effective character too (R41, R89). -/
@[simp] theorem effective_present_answer (a d : Bool) (ch v : Byte) (cp : CodePoint) (s : State) :
    ((s.present a d ch cp).answer v).effective = effectiveChar cpTrunc a ch cp := rfl

/-- Settles O36: a request presents its own operands, and both the ports and its output have their effective
character. -/
theorem effectiveCharacterIsTheSelectedOperand : Obligations.EffectiveCharacterIsTheSelectedOperand := by
  intro r s
  refine ⟨_, exec_decodeReq r s, ?_, ?_⟩
  · rw [effective_present_answer, effectiveChar_eq_ite]
  · rw [State.answer_segOut, requestOutput, segEncode, effectiveChar_eq_ite]

/-! ### No encoding is illegal -/

/-- The classifier and the 68 listed codes agree on which characters are outside the four classes (R42, R49). -/
theorem classify_eq_none_iff_tableCode (c : Byte) : classify c = .none ↔ tableCode c = false := by
  revert c
  decide +kernel

/-- A character of no class decodes to the default row (R42, R60). -/
theorem decodeChar_of_classify_none {c : Byte} (h : classify c = .none) : decodeChar c = .lutNone c :=
  decodeChar_of_not_tableCode c ((classify_eq_none_iff_tableCode c).mp h)

/-- Settles O44: every request decodes to a well-formed one and completes, and a character of no class is read by the
default row and has the blank pattern. -/
theorem everyRequestValueCompletes : Obligations.EveryRequestValueCompletes :=
  ⟨fun op ch cp s => ⟨decodeReq_wf ⟨op, ch, cp⟩, exec_decodeReq_segOut ⟨op, ch, cp⟩ s⟩,
    fun m _ hnone => ⟨decodeChar_of_classify_none hnone, base_none m hnone⟩⟩

end Sys2Proof.Proofs
end

section
/-! PROOFS. The family 40_lookup.md: the classifier by ranges (R49), the lookup of each class in its own table (R51 to
R53), the blank of every other character (R60) and how a blank output arises (R64). -/

namespace Sys2Proof.Proofs
open Sys2Proof.Machine Sys2Proof.Laws

/-! ### The code of a table entry

The lookup is said once for all four tables, from the entry's side: every entry has one code, whose class, base pattern
and `CHAR` row are the entry's. -/

/-- The class whose characters read a table (R51 to R59). -/
def classOf : RomTable → CharClass
  | .upper => .upper
  | .lower => .lower
  | .digit => .digit
  | .spec => .special

/-- The `CHAR` rows that read a table, in the order of its entries. -/
def rowsOf : RomTable → List Instr
  | .upper => Claims.upperInstrs
  | .lower => Claims.lowerInstrs
  | .digit => Claims.digitInstrs
  | .spec => Claims.specialInstrs

/-- The character that reads entry `i` of a table: the class anchor plus `i`, or the special code of index `i` (R42,
R43, R61). -/
def codeAt : (t : RomTable) → Fin t.size → Byte
  | .upper, i => 0x41#8 + BitVec.ofNat 8 i.val
  | .lower, i => 0x61#8 + BitVec.ofNat 8 i.val
  | .digit, i => 0x30#8 + BitVec.ofNat 8 i.val
  | .spec, i => Claims.specialCodes.get i

/-- The 8-bit difference undoes the sum (R43). -/
theorem anchorIndex_add (anchor : Byte) {n : Nat} (h : n < 256) :
    anchorIndex anchor (anchor + BitVec.ofNat 8 n) = n := by
  rw [anchorIndex, add_sub_cancel_left, BitVec.toNat_ofNat, Nat.mod_eq_of_lt h]

theorem anchorIndex_codeAt_upper (i : Fin RomTable.upper.size) : anchorIndex 0x41#8 (codeAt .upper i) = i.val :=
  anchorIndex_add _ (i.isLt.trans (by decide))

theorem anchorIndex_codeAt_lower (i : Fin RomTable.lower.size) : anchorIndex 0x61#8 (codeAt .lower i) = i.val :=
  anchorIndex_add _ (i.isLt.trans (by decide))

theorem anchorIndex_codeAt_digit (i : Fin RomTable.digit.size) : anchorIndex 0x30#8 (codeAt .digit i) = i.val :=
  anchorIndex_add _ (i.isLt.trans (by decide))

theorem specIndex_codeAt (i : Fin RomTable.spec.size) : specIndex (codeAt .spec i) = i := by
  revert i; decide

theorem codeAt_specIndex {c : Byte} (h : classify c = .special) : codeAt .spec (specIndex c) = c := by
  revert c; decide

theorem classify_codeAt (t : RomTable) (i : Fin t.size) : classify (codeAt t i) = classOf t := by
  cases t with
  | upper => revert i; decide
  | lower => revert i; decide
  | digit => revert i; decide
  | spec => revert i; decide

/-- Every character of a table's class is the code of one of its entries. -/
theorem exists_codeAt_eq {t : RomTable} {c : Byte} (h : classify c = classOf t) : ∃ i, codeAt t i = c := by
  have sum_anchorIndex (anchor : Byte) : anchor + BitVec.ofNat 8 (anchorIndex anchor c) = c := by
    rw [anchorIndex, BitVec.ofNat_toNat, BitVec.setWidth_eq, add_sub_cancel]
  cases t with
  | upper => exact ⟨⟨_, upper_index_lt h⟩, sum_anchorIndex _⟩
  | lower => exact ⟨⟨_, lower_index_lt h⟩, sum_anchorIndex _⟩
  | digit => exact ⟨⟨_, digit_index_lt h⟩, sum_anchorIndex _⟩
  | spec => exact ⟨specIndex c, codeAt_specIndex h⟩

/-- The code of an entry has that entry as its base pattern (R61). -/
theorem base_codeAt (m : Memory) (t : RomTable) (i : Fin t.size) : base m (codeAt t i) = romRead m t i := by
  have hclass := classify_codeAt t i
  cases t with
  | upper => exact (base_upper m hclass).trans (congrArg _ (Fin.ext (anchorIndex_codeAt_upper i)))
  | lower => exact (base_lower m hclass).trans (congrArg _ (Fin.ext (anchorIndex_codeAt_lower i)))
  | digit => exact (base_digit m hclass).trans (congrArg _ (Fin.ext (anchorIndex_codeAt_digit i)))
  | spec => exact (base_special m hclass).trans (congrArg _ (specIndex_codeAt i))

/-- The code of an entry decodes to the row of that entry (R42). -/
theorem decodeChar_codeAt (t : RomTable) (i : Fin t.size) :
    some (decodeChar (codeAt t i)) = (rowsOf t)[i.val]? := by
  cases t with
  | upper => revert i; decide +kernel
  | lower => revert i; decide +kernel
  | digit => revert i; decide +kernel
  | spec => revert i; decide +kernel

/-- A character of a table's class is the code of one entry, which is its base pattern and whose row it decodes to; the
row completes. -/
theorem lookup_of_classify (m : Memory) {t : RomTable} {c : Byte} (h : classify c = classOf t) :
    ∃ i, codeAt t i = c ∧ base m c = romRead m t i ∧ some (decodeChar c) = (rowsOf t)[i.val]? ∧
      ∀ s : State, ∃ u : State, exec (decodeChar c) s = .next u := by
  obtain ⟨i, rfl⟩ := exists_codeAt_eq h
  exact ⟨i, rfl, base_codeAt m t i, decodeChar_codeAt t i, fun s => ⟨_, exec_decodeChar _ s⟩⟩

/-! ### UPPER, LOWER and DIGIT -/

/-- Settles O12: the lookup of an UPPER character; the entry of `A` is fixed by the configuration check. -/
theorem upperLookupReadsItsTable : Obligations.UpperLookupReadsItsTable := by
  refine ⟨fun m c h => ?_, fun m => ⟨base_codeAt m .upper ⟨0, _⟩, base_codeAt m .upper ⟨25, _⟩⟩, by decide,
    by decide, fun m hadm => ?_⟩
  · obtain ⟨i, rfl, hlookup⟩ := lookup_of_classify m (t := .upper) h
    exact ⟨i, (anchorIndex_codeAt_upper i).symm, hlookup⟩
  · obtain ⟨-, hA, -, -⟩ := (Memory.admitted_iff m).mp hadm
    exact (base_codeAt m .upper ⟨0, _⟩).trans hA

/-- The build-time contents with another lowercase table (R52). -/
def contentsWithLower (f : Fin RomTable.lower.size → Byte) (a : RomAddr) : Byte :=
  if h : 26 ≤ a.val ∧ a.val < 52 then f ⟨a.val - 26, (Nat.sub_lt_iff_lt_add h.1).mpr h.2⟩ else buildEntry a

theorem contentsWithLower_lower (f : Fin RomTable.lower.size → Byte) (i : Fin RomTable.lower.size) :
    contentsWithLower f (romAddr .lower i) = f i := by
  have hi : i.val < 26 := i.isLt
  have hin : 26 ≤ (romAddr .lower i).val ∧ (romAddr .lower i).val < 52 := by
    simp only [romAddr, romStart]; omega
  rw [contentsWithLower, dif_pos hin]
  exact congrArg f (Fin.ext (Nat.add_sub_cancel_left ..))

/-- The configuration check asks nothing of the lowercase table but bit 7 (R30, R52). -/
theorem tablesAdmitted_contentsWithLower {f : Fin RomTable.lower.size → Byte} (hf : ∀ i, (f i).getLsbD 7 = false) :
    tablesAdmitted (contentsWithLower f) = true := by
  refine (tablesAdmitted_iff _).mpr ⟨fun a => ?_, rfl, rfl, rfl⟩
  unfold contentsWithLower
  split
  · exact hf _
  · exact buildEntry_bit7 a

/-- Every lowercase table with bit 7 clear is the table of an admitted memory (R52). -/
theorem exists_admitted_with_lower {f : Fin RomTable.lower.size → Byte} (hf : ∀ i, (f i).getLsbD 7 = false) :
    ∃ m : Memory, m.wf = true ∧ m.admitted = true ∧ ∀ i, romRead m .lower i = f i := by
  refine ⟨Memory.ofContents (contentsWithLower f), Memory.wf_ofContents _, ?_, fun i => ?_⟩
  · rw [Memory.admitted, funext (Memory.byteAt_ofContents _)]
    exact tablesAdmitted_contentsWithLower hf
  · rw [romRead_ofContents, contentsWithLower_lower]

/-- The zeroed lowercase table is admitted, and under it every lowercase letter is blank (R52). -/
theorem exists_admitted_lower_blank :
    ∃ m : Memory, m.wf = true ∧ m.admitted = true ∧ ∀ c : Byte, classify c = .lower → base m c = 0x00#8 := by
  obtain ⟨m, hwf, hadm, hzero⟩ := exists_admitted_with_lower (f := fun _ => 0x00#8) fun _ => rfl
  exact ⟨m, hwf, hadm, fun c h => (base_lower m h).trans (hzero _)⟩

/-- Settles O13: the lookup of a LOWER character; the zeroed table also shows `a` apart from `A`, whose entry the
configuration check fixes at 0x77. -/
theorem lowerLookupReadsItsOwnTable : Obligations.LowerLookupReadsItsOwnTable := by
  refine ⟨fun m c h => ?_, fun m => ⟨base_codeAt m .lower ⟨0, _⟩, base_codeAt m .lower ⟨25, _⟩⟩, by decide,
    by decide, fun f hf => exists_admitted_with_lower hf, ?_, exists_admitted_lower_blank⟩
  · obtain ⟨i, rfl, hlookup⟩ := lookup_of_classify m (t := .lower) h
    exact ⟨i, (anchorIndex_codeAt_lower i).symm, hlookup⟩
  · obtain ⟨m, hwf, hadm, hblank⟩ := exists_admitted_lower_blank
    obtain ⟨-, hA, -, -⟩ := (Memory.admitted_iff m).mp hadm
    refine ⟨m, hwf, hadm, ?_⟩
    rw [hblank 0x61#8 (by decide), hA]
    decide

/-- An admitted truncation gives a number of the constrained range as that character, at every width of at least 8
(R70). -/
theorem truncAdmitted_ofNat {w : Nat} {f : BitVec w → Byte} (hw : 8 ≤ w) (hf : TruncAdmitted f) {n : Nat}
    (hn : n ≤ 127) : f (BitVec.ofNat w n) = BitVec.ofNat 8 n := by
  have hfits : (BitVec.ofNat w n).toNat = n := by
    rw [BitVec.toNat_ofNat, Nat.mod_eq_of_lt (Nat.lt_of_lt_of_le (by omega) (Nat.pow_le_pow_right Nat.two_pos hw))]
  rw [hf _ (hfits.trans_le hn), BitVec.setWidth_ofNat_of_le hw]

/-- Only the code 0x38 selects the row of `8`: the encoder gives back the code that was decoded (R53). -/
theorem decodeChar_eq_lutDigit8_iff (c : Byte) : decodeChar c = .lutDigit8 ↔ c = 0x38#8 := by
  constructor
  · intro h
    have hcode : encode .lutDigit8 = .char c := h ▸ encode_decodeChar c
    exact (TableWord.char.inj hcode).symm
  · rintro rfl
    rfl

/-- Settles O14: the lookup of a DIGIT character; the integer 8 is not the character `8`. -/
theorem digitLookupReadsItsTable : Obligations.DigitLookupReadsItsTable := by
  refine ⟨fun m c h => ?_, fun m => ⟨base_codeAt m .digit ⟨0, _⟩, base_codeAt m .digit ⟨9, _⟩⟩, by decide,
    by decide, fun m hadm => ?_, decodeChar_eq_lutDigit8_iff, fun w f hw hf => ?_⟩
  · obtain ⟨i, rfl, hlookup⟩ := lookup_of_classify m (t := .digit) h
    exact ⟨i, (anchorIndex_codeAt_digit i).symm, hlookup⟩
  · obtain ⟨-, -, h8, -⟩ := (Memory.admitted_iff m).mp hadm
    exact (base_codeAt m .digit ⟨8, _⟩).trans h8
  · have h8 : f (BitVec.ofNat w 8) = 0x08#8 := truncAdmitted_ofNat hw hf (by decide)
    exact ⟨h8, h8 ▸ by decide⟩

/-! ### The blank output -/

/-- A character is of no class or is the code of a table entry (R49). -/
theorem classify_none_or_codeAt (c : Byte) : classify c = .none ∨ ∃ t i, codeAt t i = c := by
  cases h : classify c with
  | upper => exact .inr ⟨.upper, exists_codeAt_eq h⟩
  | lower => exact .inr ⟨.lower, exists_codeAt_eq h⟩
  | digit => exact .inr ⟨.digit, exists_codeAt_eq h⟩
  | special => exact .inr ⟨.spec, exists_codeAt_eq h⟩
  | none => exact .inl rfl

/-- Bit 7 of every base pattern is 0, with admitted tables (R61). -/
theorem base_bit7_of_admitted {m : Memory} (h : m.admitted = true) (c : Byte) : (base m c).getLsbD 7 = false := by
  rcases base_cases m c with ⟨t, i, hentry⟩ | ⟨-, hblank⟩
  · exact hentry ▸ romRead_bit7_of_admitted h t i
  · exact hblank ▸ rfl

/-- Only the all-off pattern is merged to a blank output (R64, R69). -/
theorem dpMerge_eq_blank_iff {b : Byte} (h : b.getLsbD 7 = false) (d : Bool) :
    dpMerge b d = (if d then 0x80#8 else 0x00#8) ↔ b = 0x00#8 := by
  revert b d; decide

/-- A base pattern is all off for a character of no class and for the code of a zero entry, and for nothing else
(R64). -/
theorem base_eq_zero_iff (m : Memory) (c : Byte) :
    base m c = 0x00#8 ↔ classify c = .none ∨ ∃ t i, codeAt t i = c ∧ romRead m t i = 0x00#8 := by
  constructor
  · intro hblank
    rcases classify_none_or_codeAt c with hnone | ⟨t, i, rfl⟩
    · exact .inl hnone
    · exact .inr ⟨t, i, rfl, base_codeAt m t i ▸ hblank⟩
  · rintro (hnone | ⟨t, i, rfl, hzero⟩)
    · exact base_none m hnone
    · exact (base_codeAt m t i).trans hzero

/-- A code that does not leave the byte is its anchor plus the index, as numbers (R62). -/
theorem anchor_add_eq_iff {anchor c : Byte} {n : Nat} (h : anchor.toNat + n < 256) :
    anchor + BitVec.ofNat 8 n = c ↔ c.toNat = anchor.toNat + n := by
  rw [← BitVec.toNat_inj, BitVec.toNat_add, BitVec.toNat_ofNat, Nat.add_mod_mod, Nat.mod_eq_of_lt h, eq_comm]

theorem codeAt_upper_eq_iff {c : Byte} (i : Fin RomTable.upper.size) :
    codeAt .upper i = c ↔ c.toNat = 0x41 + i.val :=
  anchor_add_eq_iff (Nat.add_lt_add_left i.isLt 0x41 |>.trans (by decide))

theorem codeAt_lower_eq_iff {c : Byte} (i : Fin RomTable.lower.size) :
    codeAt .lower i = c ↔ c.toNat = 0x61 + i.val :=
  anchor_add_eq_iff (Nat.add_lt_add_left i.isLt 0x61 |>.trans (by decide))

theorem codeAt_digit_eq_iff {c : Byte} (i : Fin RomTable.digit.size) :
    codeAt .digit i = c ↔ c.toNat = 0x30 + i.val :=
  anchor_add_eq_iff (Nat.add_lt_add_left i.isLt 0x30 |>.trans (by decide))

theorem codeAt_spec_eq_iff {c : Byte} (i : Fin RomTable.spec.size) :
    codeAt .spec i = c ↔ Claims.specialCodes[i.val]? = some c := by
  rw [List.getElem?_eq_getElem i.isLt, Option.some_inj]
  rfl

/-- Settles O19: the merged output is blank exactly when the base pattern is all off; space is the one case of a zero
entry that the configuration check fixes. -/
theorem blankArisesInThreeWays : Obligations.BlankArisesInThreeWays := by
  intro m c d hadm
  rw [dpMerge_eq_blank_iff (base_bit7_of_admitted hadm c), base_eq_zero_iff]
  simp only [← codeAt_upper_eq_iff, ← codeAt_lower_eq_iff, ← codeAt_digit_eq_iff, ← codeAt_spec_eq_iff]
  constructor
  · rintro (hnone | ⟨t, hentry⟩)
    · exact .inr (.inl hnone)
    · cases t with
      | upper => exact .inr (.inr (.inl hentry))
      | lower => exact .inr (.inr (.inr (.inl hentry)))
      | digit => exact .inr (.inr (.inr (.inr (.inl hentry))))
      | spec => exact .inr (.inr (.inr (.inr (.inr hentry))))
  · rintro (rfl | hnone | hentry | hentry | hentry | hentry)
    · obtain ⟨-, -, -, hspace⟩ := (Memory.admitted_iff m).mp hadm
      exact .inr ⟨.spec, _, rfl, hspace⟩
    · exact .inl hnone
    · exact .inr ⟨.upper, hentry⟩
    · exact .inr ⟨.lower, hentry⟩
    · exact .inr ⟨.digit, hentry⟩
    · exact .inr ⟨.spec, hentry⟩

/-! ### The classifier, and the characters outside the four classes -/

/-- Settles O9: the model compares the numbers of the characters, which is the unsigned order of the bytes. -/
theorem classifierFollowsTheRanges : Obligations.ClassifierFollowsTheRanges := by
  intro c
  simp [classify, BitVec.le_def, Claims.specialCodes]

/-- Settles O16: a character of no class has its pattern and its row without a ROM read; the codes are counted. -/
theorem everyOtherCharacterIsBlank : Obligations.EveryOtherCharacterIsBlank := by
  refine ⟨fun m c h => ⟨base_none m h, decodeChar_of_classify_none h, fun s => ⟨_, rfl⟩⟩, by decide +kernel,
    by decide, by decide, by decide, by decide, fun m => base_none m (by decide)⟩

end Sys2Proof.Proofs
end

section
/-! PROOFS. The family 41_operations.md: the whole next state and the output of each of the four requests (R65 to
R68). -/

namespace Sys2Proof.Proofs
open Sys2Proof.Machine Sys2Proof.Laws

/-! ### What each request does -/

/-- ENC.CHAR presents its ports and answers with the pattern of `ch` (R65). -/
theorem exec_encChar (ch : Byte) (cp : CodePoint) (s : State) :
    exec (.encChar ch cp) s = .next ((s.present false false ch cp).answer (dpMerge (base s.mem ch) false)) := rfl

/-- ENC.CHAR.DP presents its ports and answers with the pattern of `ch` and the point (R66). -/
theorem exec_encCharDp (ch : Byte) (cp : CodePoint) (s : State) :
    exec (.encCharDp ch cp) s = .next ((s.present false true ch cp).answer (dpMerge (base s.mem ch) true)) := rfl

/-- ENC.CP presents its ports and answers with the pattern of the truncated `cp` (R67). -/
theorem exec_encCp (ch : Byte) (cp : CodePoint) (s : State) :
    exec (.encCp ch cp) s = .next ((s.present true false ch cp).answer (dpMerge (base s.mem (cpTrunc cp)) false)) := rfl

/-- ENC.CP.DP presents its ports and answers with the pattern of the truncated `cp` and the point (R68). -/
theorem exec_encCpDp (ch : Byte) (cp : CodePoint) (s : State) :
    exec (.encCpDp ch cp) s = .next ((s.present true true ch cp).answer (dpMerge (base s.mem (cpTrunc cp)) true)) := rfl

/-! ### The merged patterns -/

/-- The point is OR-ed onto the base pattern, whatever its bit 7 (R66, R68, R69). -/
theorem dpMerge_true_eq_or (b : Byte) : dpMerge b true = b ||| 0x80#8 := by
  revert b; decide

/-- A character of no class gives the point alone or nothing, whatever the tables hold (R60, R69). -/
theorem dpMerge_base_none (m : Memory) {c : Byte} (h : classify c = .none) (d : Bool) :
    dpMerge (base m c) d = if d then 0x80#8 else 0x00#8 := by
  have hblank : base m c = 0x00#8 := base_none m h
  exact (dpMerge_eq_blank_iff (hblank ▸ rfl) d).mpr hblank

/-- The codes from 0x80 to 0xFF are of no class (R60, R63). -/
theorem classify_of_ge_0x80 {c : Byte} (h : 0x80 ≤ c.toNat) : classify c = .none := by
  obtain ⟨-, -, -, -, hhigh, -⟩ := everyOtherCharacterIsBlank
  exact hhigh c h

/-- The base patterns that the configuration check fixes: those of `A`, `8` and space (R6, D23). -/
theorem base_of_admitted {m : Memory} (h : m.admitted = true) :
    base m 0x41#8 = 0x77#8 ∧ base m 0x38#8 = 0x7F#8 ∧ base m 0x20#8 = 0x00#8 := by
  obtain ⟨-, hA, h8, hspace⟩ := (Memory.admitted_iff m).mp h
  exact ⟨(base_codeAt m .upper ⟨0, _⟩).trans hA, (base_codeAt m .digit ⟨8, _⟩).trans h8,
    (base_codeAt m .spec ⟨5, _⟩).trans hspace⟩

/-! ### The two character operations -/

/-- Settles O26: the merge of no point leaves an admitted base pattern as it is; the blanks hold under every ROM. -/
theorem encCharGivesThePattern : Obligations.EncCharGivesThePattern := by
  intro ch cp s
  refine ⟨decode_encode_encChar ch cp, _, exec_encChar ch cp s, rfl, dpMerge_bit7 _ _,
    fun hnone => dpMerge_base_none s.mem hnone false,
    fun hhigh => dpMerge_base_none s.mem (classify_of_ge_0x80 hhigh) false, fun i hi => ?_, fun hadm => ?_⟩
  · obtain rfl : codeAt .lower i = ch := (codeAt_lower_eq_iff i).mpr hi
    exact base_codeAt s.mem .lower i
  · have hout : dpMerge (base s.mem ch) false = base s.mem ch := dpMerge_false (base_bit7_of_admitted hadm ch)
    obtain ⟨hA, -, hspace⟩ := base_of_admitted hadm
    exact ⟨hout, fun hch => hout.trans (hch ▸ hspace), fun hch => hout.trans (hch ▸ hA)⟩

/-- Settles O27: the point is OR-ed onto the pattern, and bits 6:0 are those that ENC.CHAR gives. -/
theorem encCharDpGivesThePatternWithPoint : Obligations.EncCharDpGivesThePatternWithPoint := by
  intro ch cp s
  refine ⟨decode_encode_encCharDp ch cp, _, exec_encCharDp ch cp s, rfl, dpMerge_true_eq_or _,
    fun hnone => dpMerge_base_none s.mem hnone true,
    ⟨_, exec_encChar ch cp s, (dpMerge_low _ _).trans (dpMerge_low _ _).symm⟩, fun hadm => ?_⟩
  obtain ⟨-, h8, hspace⟩ := base_of_admitted hadm
  constructor
  · rintro rfl
    rw [State.answer_segOut, hspace]; rfl
  · rintro rfl
    rw [State.answer_segOut, h8]; rfl

/-! ### The two code-point operations -/

/-- The code point 8 is the integer and not the character `8`: it truncates to a character of no class (R67, R70). -/
theorem classify_cpTrunc_eight : classify (cpTrunc (BitVec.ofNat _ 0x08)) = .none := by
  rw [cpTrunc_ofNat (by decide)]; decide

/-- A code-point request of the request function reads the truncated operand (R41, R73). -/
theorem segEncode_opOf_true {w : Nat} (f : BitVec w → Byte) (m : Memory) (d : Bool) (ch : Byte) (cp : BitVec w) :
    segEncode f m (opOf true d) ch cp = dpMerge (base m (f cp)) d := by
  cases d
  · rfl
  · rfl

/-- The default truncation takes 0x0141 to the code of `A` (R67, R70). -/
theorem cpTruncDefault_0x0141 : cpTruncDefault 0x0141#16 = 0x41#8 := rfl

/-- So 0x0141 has the pattern of `A` under the default truncation (R67, R68). -/
theorem segEncode_cpTruncDefault_0x0141 (m : Memory) (d : Bool) (ch : Byte) :
    segEncode cpTruncDefault m (opOf true d) ch 0x0141#16 = dpMerge (base m 0x41#8) d := by
  rw [segEncode_opOf_true, cpTruncDefault_0x0141]

/-- Settles O28: the constrained truncation takes 0x41 and 8 to themselves, the characters of ENC.CHAR. -/
theorem encCpGivesThePattern : Obligations.EncCpGivesThePattern := by
  intro ch cp s
  have hA : cp = BitVec.ofNat _ 0x41 → cpTrunc cp = 0x41#8 := fun hcp => hcp ▸ cpTrunc_ofNat (by decide)
  have hnone (h : classify (cpTrunc cp) = .none) : dpMerge (base s.mem (cpTrunc cp)) false = 0x00#8 :=
    dpMerge_base_none s.mem h false
  refine ⟨decode_encode_encCp ch cp, _, exec_encCp ch cp s, rfl, fun hcp => ⟨_, exec_encChar 0x41#8 cp s, ?_⟩,
    fun hcp => hnone (hcp ▸ classify_cpTrunc_eight), hnone, fun hadm hcp => ?_, cpTruncDefault_0x0141,
    segEncode_cpTruncDefault_0x0141 s.mem false⟩
  · rw [State.answer_segOut, State.answer_segOut, hA hcp]
  · obtain ⟨hbase, -, -⟩ := base_of_admitted hadm
    rw [State.answer_segOut, hA hcp, hbase]; rfl

/-- Settles O29: as ENC.CP, with the point OR-ed onto the pattern. -/
theorem encCpDpGivesThePatternWithPoint : Obligations.EncCpDpGivesThePatternWithPoint := by
  intro ch cp s
  have hnone (h : classify (cpTrunc cp) = .none) : dpMerge (base s.mem (cpTrunc cp)) true = 0x80#8 :=
    dpMerge_base_none s.mem h true
  refine ⟨decode_encode_encCpDp ch cp, _, exec_encCpDp ch cp s, rfl, dpMerge_true_eq_or _, hnone,
    fun hcp => hnone (hcp ▸ classify_cpTrunc_eight), fun hcp => ⟨_, exec_encCharDp 0x41#8 cp s, ?_⟩,
    fun hadm hcp => ?_, cpTruncDefault_0x0141, segEncode_cpTruncDefault_0x0141 s.mem true⟩
  · have hA : cpTrunc cp = 0x41#8 := hcp ▸ cpTrunc_ofNat (by decide)
    rw [State.answer_segOut, State.answer_segOut, hA]
  · have h8 : cpTrunc cp = 0x38#8 := hcp ▸ cpTrunc_ofNat (by decide)
    obtain ⟨-, hbase, -⟩ := base_of_admitted hadm
    rw [State.answer_segOut, h8, hbase]; rfl

end Sys2Proof.Proofs
end

section
/-! PROOFS. The family 60_exceptions.md: no request raises a fault (R74), and an unrecognized character completes with
the blank pattern (R75). -/

namespace Sys2Proof.Proofs
open Sys2Proof.Machine Sys2Proof.Laws

/-- Settles O45: every instruction and every step completes, and `Fault` has no constructor. -/
theorem noRequestFaults : Obligations.NoRequestFaults := by
  refine ⟨fun i s => ?_, fun s => ?_, nofun⟩
  · obtain ⟨t, hexec, -⟩ := exec_completes_mem i s
    exact ⟨t, hexec⟩
  · obtain ⟨t, hstep, -⟩ := step_completes_mem s
    exact ⟨t, hstep⟩

/-- Settles O46: a character of no class gives the point alone or nothing under every ROM; space gives nothing where
the configuration check fixes its entry. -/
theorem unrecognizedCharacterIsNoException : Obligations.UnrecognizedCharacterIsNoException := by
  intro c cp s hnone
  have hblank (d : Bool) : dpMerge (base s.mem c) d = if d then 0x80#8 else 0x00#8 := dpMerge_base_none s.mem hnone d
  refine ⟨_, _, _, exec_encChar c cp s, hblank false, exec_encCharDp c cp s, hblank true,
    exec_encChar 0x20#8 cp s, fun hadm => ?_⟩
  obtain ⟨-, -, hspace⟩ := base_of_admitted hadm
  calc dpMerge (base s.mem 0x20#8) false
    _ = 0x00#8 := by rw [hspace]; rfl
    _ = dpMerge (base s.mem c) false := (hblank false).symm

end Sys2Proof.Proofs
end

section
/-! PROOFS. The remaining statements on encodings (30_encoding.md): the decoder and the encoder undo each other (R40,
R42, R44), the map of the character codes, and the expansion of the source's calls (R48). -/

namespace Sys2Proof.Proofs
open Sys2Proof.Machine Sys2Proof.Laws

/-! ### The round trips -/

/-- Settles O3: the requests and the default row carry operands, and every other row is one code. -/
theorem decodeOfEncodeIsTheInstruction : Obligations.DecodeOfEncodeIsTheInstruction := by
  intro i hwf
  cases i with
  | encChar ch cp => exact decode_encode_encChar ch cp
  | encCharDp ch cp => exact decode_encode_encCharDp ch cp
  | encCp ch cp => exact decode_encode_encCp ch cp
  | encCpDp ch cp => exact decode_encode_encCpDp ch cp
  | lutNone c => exact RoundTrip.lutNone c hwf
  | _ => rfl

/-- The four values of `op` (R40). -/
theorem op_cases (op : BitVec 2) : op = 0b00#2 ∨ op = 0b01#2 ∨ op = 0b10#2 ∨ op = 0b11#2 := by
  revert op; decide

/-- The encoder gives back the request that was decoded: it writes the `op` that the decoder reads (R40). -/
theorem encode_decodeReq (r : ReqWord) : encode (decodeReq r) = .req r := by
  obtain ⟨op, ch, cp⟩ := r
  rcases op_cases op with rfl | rfl | rfl | rfl
  · exact congrArg encode (decode_encode_encChar ch cp)
  · exact congrArg encode (decode_encode_encCharDp ch cp)
  · exact congrArg encode (decode_encode_encCp ch cp)
  · exact congrArg encode (decode_encode_encCpDp ch cp)

/-- Settles O4, for each of the two formats. -/
theorem everyWordHasOneWellFormedMeaning : Obligations.EveryWordHasOneWellFormedMeaning := by
  intro w
  cases w with
  | req r => exact ⟨decodeReq_wf r, encode_decodeReq r⟩
  | char c => exact ⟨decodeChar_wf c, encode_decodeChar c⟩

/-- Settles O1: the decoder reads the encoder's words of the four requests. -/
theorem opSelectsTheOperation : Obligations.OpSelectsTheOperation := fun ch cp =>
  ⟨decode_encode_encChar ch cp, decode_encode_encCharDp ch cp, decode_encode_encCp ch cp, decode_encode_encCpDp ch cp⟩

/-- Settles O2: the seven words, read by the two decoders. -/
theorem writtenOutWordsDecode : Obligations.WrittenOutWordsDecode := fun ch cp =>
  ⟨decode_encode_encChar ch cp, decode_encode_encCpDp ch cp, rfl, rfl, rfl, rfl, rfl⟩

/-! ### The map of the character codes -/

/-- A row of mask 0xFF matches its own code and no other. -/
theorem matchesCode_iff {r : CharRow} (h : r.mask = 0xFF#8) (c : Byte) : r.matchesCode c = true ↔ c = r.pat := by
  have hand : c &&& 0xFF#8 = c := BitVec.and_allOnes
  rw [CharRow.matchesCode, h, hand, beq_iff_eq]

/-- Every listed row is of mask 0xFF (R42). -/
theorem charRows_mask : ∀ r ∈ charRows, r.mask = 0xFF#8 := by decide

/-- No code is listed twice (R42, R50). -/
theorem charRows_pat_nodup : (charRows.map CharRow.pat).Nodup := by decide

/-- Settles O5: a code that two rows match is the listed code of both. -/
theorem charRowsDoNotOverlap : Obligations.CharRowsDoNotOverlap := by
  refine ⟨rfl, (List.pairwise_map.mp charRows_pat_nodup).imp_of_mem fun hx hy hne c ⟨hcx, hcy⟩ => hne ?_⟩
  have hcx := (matchesCode_iff (charRows_mask _ hx) c).mp hcx
  have hcy := (matchesCode_iff (charRows_mask _ hy) c).mp hcy
  exact hcx.symm.trans hcy

/-- The codes of the default row are those of no class (R42, R60). -/
theorem classify_eq_none_iff_decodeChar (c : Byte) : classify c = .none ↔ decodeChar c = .lutNone c := by
  refine ⟨decodeChar_of_classify_none, fun hrow => ?_⟩
  have hwf : (Instr.lutNone c).wf = true := hrow ▸ decodeChar_wf c
  exact (classify_eq_none_iff_tableCode c).mpr (by simpa [Instr.wf] using hwf)

/-- Settles O6: the code of each table entry decodes to the row of that entry; the codes of each class are counted. -/
theorem charCodesDecodeByTheMap : Obligations.CharCodesDecodeByTheMap := by
  obtain ⟨-, hnone, -⟩ := everyOtherCharacterIsBlank
  refine ⟨fun k => ?_, fun k => ?_, fun k => ?_, by decide +kernel, classify_eq_none_iff_decodeChar,
    by decide +kernel, by decide +kernel, by decide +kernel, by decide +kernel, hnone⟩
  · rw [BitVec.ofNat_add]
    exact (decodeChar_codeAt .upper k).symm
  · rw [BitVec.ofNat_add]
    exact (decodeChar_codeAt .lower k).symm
  · rw [BitVec.ofNat_add]
    exact (decodeChar_codeAt .digit k).symm

/-! ### The source's calls -/

/-- Settles O58: a call selects its operand's port, and its `dp_en` is the flag, disabled where it is absent. -/
theorem sourceCallsExpandToRequests : Obligations.SourceCallsExpandToRequests := by
  intro x c y n i b
  refine ⟨rfl, fun d => ?_, rfl, fun d => ?_, fun o => ⟨rfl, rfl⟩, rfl, rfl⟩
  · cases d with
    | false => rfl
    | true => rfl
  · cases d with
    | false => rfl
    | true => rfl

end Sys2Proof.Proofs
end

section
/-! PROOFS. The remaining statements on lookups (40_lookup.md): the class tests in any order (R50), a signed character
type (R63), the index of a character (R43, R62), the special characters (R54 to R59), and what each `CHAR` row does. -/

namespace Sys2Proof.Proofs
open Sys2Proof.Machine Sys2Proof.Laws

/-! ### The classifier -/

/-- A class test passes exactly on the characters of its class, so no two tests pass on one character (R50). -/
theorem classTests_pass_iff {x : CharClass × (Byte → Bool)} (hx : x ∈ Claims.classTests) (c : Byte) :
    x.2 c = true ↔ classify c = x.1 := by
  simp only [Claims.classTests, List.mem_cons, List.not_mem_nil, or_false] at hx
  rcases hx with rfl | rfl | rfl | rfl
  · revert c; decide
  · revert c; decide
  · revert c; decide
  · revert c; decide

/-- Every class but NONE has a test (R49). -/
theorem exists_classTest {k : CharClass} (h : k ≠ .none) : ∃ x ∈ Claims.classTests, x.1 = k := by
  cases k with
  | none => exact absurd rfl h
  | _ => simp [Claims.classTests]

/-- Settles O10: the first test that passes is the test of the character's class, wherever it stands. -/
theorem testOrderDoesNotMatter : Obligations.TestOrderDoesNotMatter := by
  intro l hperm c
  unfold Claims.firstClass
  split
  · next x hfind =>
    have hx : x ∈ Claims.classTests := hperm.mem_iff.mp (List.mem_of_find?_eq_some hfind)
    have hpass : x.2 c = true := by simpa using List.find?_some hfind
    exact ((classTests_pass_iff hx c).mp hpass).symm
  · next hfind =>
    by_contra hclass
    obtain ⟨x, hx, hxc⟩ := exists_classTest (Ne.symm hclass)
    exact List.find?_eq_none.mp hfind x (hperm.mem_iff.mpr hx) ((classTests_pass_iff hx c).mpr hxc.symm)

/-- The signed and the unsigned classifier agree on all 256 characters (R63). -/
theorem classifySigned_eq_classify (c : Byte) : Claims.classifySigned c = classify c := by
  revert c; decide

/-- Settles O11: the characters from 0x80 are of no class, under either reading. -/
theorem signednessDoesNotMatter : Obligations.SignednessDoesNotMatter :=
  ⟨classifySigned_eq_classify, fun m _ hhigh => base_none m (classify_of_ge_0x80 hhigh)⟩

/-! ### Indices and base patterns -/

/-- Settles O18: a character of an arithmetic class is the anchor plus the index of its entry. -/
theorem indexNeverWraps : Obligations.IndexNeverWraps := by
  refine ⟨fun c h => ?_, fun c h => ?_, fun c h => ?_, fun c => (specIndex c).isLt⟩
  · obtain ⟨i, rfl⟩ := exists_codeAt_eq (t := .upper) h
    rw [anchorIndex_codeAt_upper, (codeAt_upper_eq_iff i).mp rfl, Nat.add_sub_cancel_left]
    exact ⟨Nat.le_add_right _ _, rfl, i.isLt⟩
  · obtain ⟨i, rfl⟩ := exists_codeAt_eq (t := .lower) h
    rw [anchorIndex_codeAt_lower, (codeAt_lower_eq_iff i).mp rfl, Nat.add_sub_cancel_left]
    exact ⟨Nat.le_add_right _ _, rfl, i.isLt⟩
  · obtain ⟨i, rfl⟩ := exists_codeAt_eq (t := .digit) h
    rw [anchorIndex_codeAt_digit, (codeAt_digit_eq_iff i).mp rfl, Nat.add_sub_cancel_left]
    exact ⟨Nat.le_add_right _ _, rfl, i.isLt⟩

/-- Settles O15: each special code is the code of its entry; the entry of space is fixed by the configuration check. -/
theorem specialLookupReadsItsEntry : Obligations.SpecialLookupReadsItsEntry := by
  refine ⟨fun m i => ⟨codeAt .spec i, (codeAt_spec_eq_iff i).mp rfl, base_codeAt m .spec i, decodeChar_codeAt .spec i⟩,
    by decide, fun m hadm => ?_⟩
  obtain ⟨-, -, hspace⟩ := base_of_admitted hadm
  exact hspace

/-- Settles O17: a base pattern is an admitted entry or all off. -/
theorem basePatternHasBit7Clear : Obligations.BasePatternHasBit7Clear := fun _ c hadm => base_bit7_of_admitted hadm c

/-- Refutes O60: under the zeroed lowercase table, which the configuration check admits, `b` is blank (R52). -/
theorem not_lowercaseBIsNeverBlank : ¬ Obligations.LowercaseBIsNeverBlank := by
  intro hnever
  obtain ⟨m, hwf, hadm, hblank⟩ := exists_admitted_lower_blank
  refine hnever 0#_ { State.reset with mem := m } _ hwf hadm (exec_encChar 0x62#8 0#_ _) ?_
  show dpMerge (base m 0x62#8) false = 0x00#8
  rw [hblank 0x62#8 (by decide)]
  rfl

/-! ### What each `CHAR` row does -/

/-- The row of a table entry drives `seg_out` with that entry: it is the row that the entry's code decodes to. -/
theorem exec_rowsOf (t : RomTable) (k : Fin t.size) (s : State) :
    ∃ i, (rowsOf t)[k.val]? = some i ∧
      exec i s = .next { s with segOut := dpMerge (romRead s.mem t k) s.dpEn } := by
  refine ⟨decodeChar (codeAt t k), (decodeChar_codeAt t k).symm, ?_⟩
  rw [exec_decodeChar, base_codeAt]
  rfl

/-- Settles O20. -/
theorem upperRowsDriveTheirEntry : Obligations.UpperRowsDriveTheirEntry := exec_rowsOf .upper

/-- Settles O21. -/
theorem lowerRowsDriveTheirEntry : Obligations.LowerRowsDriveTheirEntry := exec_rowsOf .lower

/-- Settles O22. -/
theorem digitRowsDriveTheirEntry : Obligations.DigitRowsDriveTheirEntry := exec_rowsOf .digit

/-- Settles O23. -/
theorem specialRowsDriveTheirEntry : Obligations.SpecialRowsDriveTheirEntry := exec_rowsOf .spec

/-- Settles O24: the merge of the all-off pattern is the point alone or nothing. -/
theorem defaultRowDrivesTheBlank : Obligations.DefaultRowDrivesTheBlank := by
  intro c s
  have hblank : dpMerge 0x00#8 s.dpEn = if s.dpEn then 0x80#8 else 0x00#8 := (dpMerge_eq_blank_iff rfl s.dpEn).mpr rfl
  rw [← hblank]
  rfl

/-- A `CHAR` row drives `seg_out` and does nothing else (log entry 1 of the model). -/
theorem exec_of_isRow {i : Instr} (h : Claims.isRow i = true) (s : State) : ∃ v, exec i s = .next (s.drive v) := by
  cases i with
  | encChar => exact absurd h Bool.false_ne_true
  | encCharDp => exact absurd h Bool.false_ne_true
  | encCp => exact absurd h Bool.false_ne_true
  | encCpDp => exact absurd h Bool.false_ne_true
  | _ => exact ⟨_, rfl⟩

/-- Settles O25: a row only drives `seg_out`. -/
theorem rowsChangeOnlyTheOutputPort : Obligations.RowsChangeOnlyTheOutputPort := by
  intro i s t hrow hexec
  obtain ⟨v, hdrive⟩ := exec_of_isRow hrow s
  cases hdrive.symm.trans hexec
  exact ⟨rfl, fun _ => rfl⟩

end Sys2Proof.Proofs
end

section
/-! PROOFS. The remaining statements on operations and runs (41_operations.md, 10_state.md,
70_reset_and_hazards.md): what a request and a step do to the whole state, and how a run of requests ends. -/

namespace Sys2Proof.Proofs
open Sys2Proof.Machine Sys2Proof.Laws

/-! ### The merge and the truncation -/

/-- Settles O31: the mask clears bit 7 of the pattern, and the flag sets no other bit (R69). -/
theorem dpMergeFixesBit7 : Obligations.DpMergeFixesBit7 := by
  refine fun b d => ⟨rfl, dpMerge_bit7 b d, fun k => ?_, dpMerge_false⟩
  have hmask : (0x7F#8).getLsbD k.val = true := by revert k; decide
  have hlow := congrArg (·.getLsbD k.val) (dpMerge_low b d)
  simpa only [BitVec.getLsbD_and, hmask, Bool.and_true] using hlow

/-- Settles O32: the machine's truncation and the default one are `cp[7:0]` where R70 asks it. -/
theorem truncationKeepsTheConstraint : Obligations.TruncationKeepsTheConstraint :=
  ⟨fun _ h => cpTruncBy_of_le _ h, eight_le_cpWidth, fun _ _ _ => rfl⟩

/-- A truncation that meets the constraint is its own outside part (R70). -/
theorem eq_cpTruncBy_self {w : Nat} {f : BitVec w → Byte} (h : TruncAdmitted f) : f = cpTruncBy f := by
  funext cp
  rcases Nat.lt_or_ge 127 cp.toNat with hgt | hle
  · exact (cpTruncBy_of_gt f hgt).symm
  · exact (h cp hle).trans (cpTruncBy_of_le f hle).symm

/-- Settles O33: the outside part of the model's form is free. -/
theorem everyAdmittedTruncationIsCovered : Obligations.EveryAdmittedTruncationIsCovered := by
  refine ⟨fun w f => ⟨fun h => ⟨f, eq_cpTruncBy_self h⟩, ?_⟩, rfl⟩
  rintro ⟨g, rfl⟩
  exact fun _ h => cpTruncBy_of_le g h

/-! ### What a request does -/

/-- The four requests are those that the decoder reads. -/
theorem exists_decodeReq_of_not_isRow {i : Instr} (h : Claims.isRow i = false) : ∃ r, i = decodeReq r := by
  cases i with
  | encChar ch cp => exact ⟨_, (decode_encode_encChar ch cp).symm⟩
  | encCharDp ch cp => exact ⟨_, (decode_encode_encCharDp ch cp).symm⟩
  | encCp ch cp => exact ⟨_, (decode_encode_encCp ch cp).symm⟩
  | encCpDp ch cp => exact ⟨_, (decode_encode_encCpDp ch cp).symm⟩
  | _ => exact absurd h.symm Bool.false_ne_true

/-- Settles O37: a request presents its values and answers with its output. -/
theorem requestWritesOnlyItsOutput : Obligations.RequestWritesOnlyItsOutput := fun r s => exec_decodeReq r s

/-- Settles O30: presenting and answering touch the ports and the output list alone. -/
theorem requestsChangeOnlyPortsAndOutputs : Obligations.RequestsChangeOnlyPortsAndOutputs := by
  intro i s t hreq hexec
  obtain ⟨r, rfl⟩ := exists_decodeReq_of_not_isRow hreq
  cases (exec_decodeReq r s).symm.trans hexec
  exact ⟨fun _ => rfl, rfl, rfl, rfl⟩

/-- Settles O38: the row list and the classifier agree on the effective character. -/
theorem requestRunsTheRowOfItsCharacter : Obligations.RequestRunsTheRowOfItsCharacter := fun r s =>
  ⟨_, _, exec_decodeReq r s, exec_decodeChar _ _, rfl, rfl⟩

/-- The output of a request depends on the ROM by its readings alone, and on the selected operand alone (R18, R25). -/
theorem requestOutput_congr {m m' : Memory} {r r' : ReqWord} (hmem : ∀ a, m.byteAt a = m'.byteAt a)
    (hop : r.op = r'.op) (hch : r.op.getLsbD 1 = false → r.ch = r'.ch) (hcp : r.op.getLsbD 1 = true → r.cp = r'.cp) :
    requestOutput m r = requestOutput m' r' := by
  have hchar : effectiveChar cpTrunc (r.op.getLsbD 1) r.ch r.cp =
      effectiveChar cpTrunc (r'.op.getLsbD 1) r'.ch r'.cp := by
    rw [← hop]
    cases hsel : r.op.getLsbD 1 with
    | false => exact hch hsel
    | true => exact congrArg cpTrunc (hcp hsel)
  rw [requestOutput, requestOutput, segEncode, segEncode, hchar, base_congr hmem, hop]

/-- Two requests of one output complete with the same `seg_out`, each on its own state. -/
theorem exec_decodeReq_segOut_congr {r r' : ReqWord} {s s' : State}
    (h : requestOutput s.mem r = requestOutput s'.mem r') :
    ∃ t t', exec (decodeReq r) s = .next t ∧ exec (decodeReq r') s' = .next t' ∧ t.segOut = t'.segOut := by
  obtain ⟨t, ht, hout⟩ := exec_decodeReq_segOut r s
  obtain ⟨t', ht', hout'⟩ := exec_decodeReq_segOut r' s'
  exact ⟨t, t', ht, ht', hout.trans (h.trans hout'.symm)⟩

/-- Settles O40: the output of a request is a function of its selected operand. -/
theorem unselectedOperandIsIgnored : Obligations.UnselectedOperandIsIgnored := fun _ _ _ _ _ _ =>
  ⟨fun hsel => exec_decodeReq_segOut_congr
      (requestOutput_congr (fun _ => rfl) rfl (fun _ => rfl) fun h => absurd (hsel.symm.trans h) Bool.false_ne_true),
    fun hsel => exec_decodeReq_segOut_congr
      (requestOutput_congr (fun _ => rfl) rfl (fun h => absurd (h.symm.trans hsel) Bool.false_ne_true) fun _ => rfl)⟩

/-- Settles O42: the output of a request is a function of what the ROM reads. -/
theorem instancesWithTheSameTablesAgree : Obligations.InstancesWithTheSameTablesAgree := fun _ _ _ hmem =>
  exec_decodeReq_segOut_congr (requestOutput_congr hmem rfl (fun _ => rfl) fun _ => rfl)

/-- Settles O34: on 0..127 the truncated code point is the character of that number. -/
theorem codePointAgreesWithCharacter : Obligations.CodePointAgreesWithCharacter := by
  intro n s ch cp hn
  have hchar : cpTrunc (BitVec.ofNat _ n) = BitVec.ofNat 8 n := cpTrunc_ofNat hn
  refine ⟨_, _, _, _, exec_encCp ch _ s, exec_encChar _ cp s, exec_encCpDp ch _ s, exec_encCharDp _ cp s, ?_, ?_⟩
  · rw [State.answer_segOut, State.answer_segOut, hchar]
  · rw [State.answer_segOut, State.answer_segOut, hchar]

/-- Settles O35: the laws of the merge, read on the four requests. -/
theorem lawsOfTheOperations : Obligations.LawsOfTheOperations := by
  intro s c cp
  have hlow (c : Byte) : dpMerge (base s.mem c) false &&& 0x7F#8 = dpMerge (base s.mem c) true &&& 0x7F#8 :=
    (dpMerge_low _ _).trans (dpMerge_low _ _).symm
  exact ⟨_, _, _, _, exec_encChar c cp s, exec_encCharDp c cp s, exec_encCp c cp s, exec_encCpDp c cp s,
    dpMerge_true, ⟨rfl, rfl⟩, dpMerge_bit7 _ _, fun hnone => dpMerge_base_none s.mem hnone false,
    ⟨_, _, exec_encChar _ cp s, rfl, exec_encCharDp _ cp s, rfl⟩, hlow c, hlow (cpTrunc cp)⟩

/-- Settles O57: the base patterns of `A` and `8` are fixed by the configuration check, and their segments are read
off. -/
theorem sourceValuesLightTheirSegments : Obligations.SourceValuesLightTheirSegments := by
  intro cp s hadm
  obtain ⟨hA, h8, -⟩ := base_of_admitted hadm
  refine ⟨_, _, exec_encChar 0x41#8 cp s, exec_encChar 0x38#8 cp s, fun x => ?_, fun x => ?_⟩
  · rw [State.answer_segOut, hA]
    cases x <;> rfl
  · rw [State.answer_segOut, h8]
    cases x <;> rfl

/-! ### What a step does -/

/-- The output of the request standing on the ports, by their effective character and `dp_en` (R39, R41, R73). -/
theorem requestOutput_portRequest (m : Memory) (s : State) :
    requestOutput m s.portRequest = dpMerge (base m s.effective) s.dpEn := by
  have hsel : (opOf s.srcSel s.dpEn).getLsbD 1 = s.srcSel := opOf_bit1 _ _
  have hdp : (opOf s.srcSel s.dpEn).getLsbD 0 = s.dpEn := opOf_bit0 _ _
  rw [requestOutput, State.portRequest, segEncode, hsel, hdp, State.effective]

/-- The values that a request presents are the request itself (R39, R89). -/
theorem portRequest_present_answer (r : ReqWord) (v : Byte) (s : State) :
    ((s.present (r.op.getLsbD 1) (r.op.getLsbD 0) r.ch r.cp).answer v).portRequest = r :=
  congrArg (ReqWord.mk · r.ch r.cp) (opOf_bits r.op)

/-- Settles O7: the two branches of `fetch`. -/
theorem stepRunsTheDecodedInstruction : Obligations.StepRunsTheDecodedInstruction := ⟨step_request, step_standing⟩

/-- A step with no request waiting drives the output of the standing request. -/
theorem step_of_program_nil {s : State} (h : s.program = []) :
    step s = .next (s.drive (requestOutput s.mem s.portRequest)) := by
  rw [step_standing s h, exec_decodeChar, requestOutput_portRequest]

/-- Settles O8. -/
theorem standingInputsGiveTheirPattern : Obligations.StandingInputsGiveTheirPattern := fun _ h => step_of_program_nil h

/-- Every step leaves the ROM and puts `seg_out` at the output of the request that then stands on the ports (R73). -/
theorem step_mem_segOut {s t : State} (h : step s = .next t) :
    t.mem = s.mem ∧ t.segOut = requestOutput t.mem t.portRequest := by
  cases hprogram : s.program with
  | nil =>
    cases (step_of_program_nil hprogram).symm.trans h
    exact ⟨rfl, rfl⟩
  | cons r rest =>
    cases ((step_request r rest s hprogram).trans (exec_decodeReq r _)).symm.trans h
    exact ⟨rfl, by rw [portRequest_present_answer]; rfl⟩

/-- Settles O50: the ROM stays as it was, and `seg_out` is right after any step. -/
theorem everyStepKeepsTheInvariant : Obligations.EveryStepKeepsTheInvariant := by
  rintro s t ⟨hwf, hadm, -⟩ hstep
  obtain ⟨hmem, hout⟩ := step_mem_segOut hstep
  exact ⟨hmem ▸ hwf, hmem ▸ hadm, hout⟩

/-- Settles O51. -/
theorem oneStepMakesTheOutputRight : Obligations.OneStepMakesTheOutputRight := fun _ _ hstep => (step_mem_segOut hstep).2

/-- Settles O39: the output is a merge of the effective character's base pattern with `dp_en`. -/
theorem outputBitsAfterEveryStep : Obligations.OutputBitsAfterEveryStep := by
  intro s t hstep
  obtain ⟨-, hout⟩ := step_mem_segOut hstep
  rw [hout, requestOutput_portRequest]
  exact ⟨dpMerge_bit7 _ _, dpMerge_low _ _⟩

/-- Settles O49: the memory as built passes the check, and the output of the zero inputs is the blank of character
0x00. -/
theorem resetIsAGoodState : Obligations.ResetIsAGoodState :=
  ⟨⟨Memory.wf_nil, Memory.admitted_nil, rfl⟩, fun _ => rfl, rfl, rfl, rfl, buildEntry_bit7⟩

/-! ### Runs -/

/-- A run of any length completes (R74). -/
theorem run_completes (k : Nat) (s : State) : ∃ t : State, Host.Core.run Sys2Proof.core k s = .next t := by
  induction k generalizing s with
  | zero => exact ⟨s, rfl⟩
  | succ k ih =>
    obtain ⟨u, hstep, -⟩ := step_completes_mem s
    rw [run_succ_of_step hstep]
    exact ih u

/-- As many steps as requests are waiting end with none waiting and with their outputs listed in order (R92, R93). -/
theorem run_program {l : List ReqWord} {s : State} (h : s.program = l) :
    ∃ t : State, Host.Core.run Sys2Proof.core l.length s = .next t ∧ t.program = [] ∧
      t.outputs = s.outputs ++ l.map (requestOutput s.mem) := by
  induction l generalizing s with
  | nil => exact ⟨s, rfl, h, (List.append_nil _).symm⟩
  | cons r rest ih =>
    obtain ⟨u, hstep, hprogram, hmem, houtputs⟩ := outputs_of_step_request r rest s h
    obtain ⟨t, hrun, hdone, htotal⟩ := ih hprogram
    rw [hprogram, h] at houtputs
    refine ⟨t, (run_succ_of_step hstep _).trans hrun, hdone, htotal.trans ?_⟩
    rw [← hmem] at houtputs ⊢
    exact houtputs

/-- Settles O47. -/
theorem everyProgramEndsWithItsOutputs : Obligations.EveryProgramEndsWithItsOutputs :=
  ⟨fun _ => run_program rfl, run_completes⟩

/-- Settles O48: a request's place in the list is its place among the outputs. -/
theorem placeInTheOrderDoesNotMatter : Obligations.PlaceInTheOrderDoesNotMatter := by
  intro s before after r
  obtain ⟨t, hrun, -, houtputs⟩ := run_program (s := { s with program := before ++ r :: after }) rfl
  have hlength : (before ++ r :: after).length = before.length + (1 + after.length) := by
    rw [List.length_append, List.length_cons, Nat.add_comm after.length]
  rw [hlength] at hrun
  refine ⟨t, hrun, ?_⟩
  rw [houtputs, List.getElem?_append_right (Nat.le_add_right _ _), Nat.add_sub_cancel_left, List.getElem?_map,
    List.getElem?_append_right le_rfl, Nat.sub_self]
  rfl

end Sys2Proof.Proofs
end

section
/-! PROOFS. The remaining statements on the pattern ROM (20_memory.md): its map is linear (R29), the configuration
check says what the rules say (R30, D23), and a contents has one canonical memory. -/

namespace Sys2Proof.Proofs
open Sys2Proof.Machine

/-! ### The map -/

/-- The table that an address lies in (R29). -/
def tableOf (a : RomAddr) : RomTable :=
  if a.val < 26 then .upper else if a.val < 52 then .lower else if a.val < 62 then .digit else .spec

/-- An address is the start of its table and an index of that table. -/
theorem exists_romAddr_tableOf (a : RomAddr) : ∃ i : Fin (tableOf a).size, romAddr (tableOf a) i = a := by
  have hindex : romStart (tableOf a) ≤ a.val ∧ a.val - romStart (tableOf a) < (tableOf a).size := by
    revert a; decide
  obtain ⟨hstart, hlt⟩ := hindex
  exact ⟨⟨_, hlt⟩, Fin.ext (Nat.add_sub_cancel' hstart)⟩

/-- Every entry of a table lies in that table. -/
theorem tableOf_romAddr (t : RomTable) (i : Fin t.size) : tableOf (romAddr t i) = t := by
  cases t with
  | upper => revert i; decide
  | lower => revert i; decide
  | digit => revert i; decide
  | spec => revert i; decide

/-- Two entries of one table with one address have one index. -/
theorem romAddr_injective (t : RomTable) : Function.Injective (romAddr t) := fun _ _ h =>
  Fin.ext (Nat.add_left_cancel (Fin.val_eq_of_eq h))

/-- Settles O52: an address gives its table, and then its index. -/
theorem romMapIsLinear : Obligations.RomMapIsLinear := by
  refine ⟨fun i => Nat.zero_add _, fun i => rfl, fun i => rfl, fun i => rfl, fun a => ?_⟩
  obtain ⟨i, hi⟩ := exists_romAddr_tableOf a
  refine ⟨tableOf a, i, hi, fun t' i' hi' => ?_⟩
  obtain rfl : t' = tableOf a := by rw [← hi', tableOf_romAddr]
  exact ⟨rfl, congrArg Fin.val (romAddr_injective _ (hi'.trans hi.symm))⟩

/-- Settles O54. -/
theorem configurationCheckIsExact : Obligations.ConfigurationCheckIsExact := tablesAdmitted_iff

/-! ### Canonical memories -/

/-- In a memory with rising addresses, what is found at an address is what is listed there. -/
theorem lookup_eq_some_iff_mem {m : Memory} (h : m.Pairwise fun x y => x.1 < y.1) (n : Nat) (v : Byte) :
    m.lookup n = some v ↔ (n, v) ∈ m := by
  rw [List.lookup_eq_some_iff]
  constructor
  · rintro ⟨before, after, rfl, -⟩
    exact List.mem_append_right _ (List.mem_cons_self ..)
  · intro hmem
    obtain ⟨before, after, rfl⟩ := List.append_of_mem hmem
    obtain ⟨-, -, hbelow⟩ := List.pairwise_append.mp h
    exact ⟨before, after, rfl, fun x hx => bne_iff_ne.mpr (Nat.ne_of_gt (hbelow x hx _ (List.mem_cons_self ..)))⟩

/-- A listed cell of a canonical memory is at an address of the ROM, and its entry is not the build-time one. -/
theorem cellDiffers_iff (x : Host.Cell) :
    cellDiffers x = true ↔ ∃ a : RomAddr, x.1 = a.val ∧ x.2 ≠ buildEntry a := by
  unfold cellDiffers
  split
  · next hlt =>
    rw [decide_eq_true_iff]
    refine ⟨fun hne => ⟨⟨x.1, hlt⟩, rfl, hne⟩, ?_⟩
    rintro ⟨a, ha, hne⟩
    obtain rfl : a = ⟨x.1, hlt⟩ := Fin.ext ha.symm
    exact hne
  · next hge =>
    refine ⟨fun h => absurd h Bool.false_ne_true, ?_⟩
    rintro ⟨a, ha, -⟩
    exact absurd (ha ▸ a.isLt) hge

/-- A canonical memory lists the readings that differ from the build-time entries, and nothing else. -/
theorem mem_iff_of_wf {m : Memory} (hwf : m.wf = true) (x : Host.Cell) :
    x ∈ m ↔ ∃ a : RomAddr, x = (a.val, m.byteAt a) ∧ m.byteAt a ≠ buildEntry a := by
  obtain ⟨hrising, hdiffers⟩ := (Memory.wf_iff m).mp hwf
  constructor
  · intro hx
    obtain ⟨a, haddr, hne⟩ := (cellDiffers_iff x).mp (hdiffers x hx)
    have hread : m.byteAt a = x.2 := by
      rw [Memory.byteAt, ← haddr, (lookup_eq_some_iff_mem hrising x.1 x.2).mpr hx, Option.getD_some]
    exact ⟨a, Prod.ext haddr hread.symm, hread ▸ hne⟩
  · rintro ⟨a, rfl, hne⟩
    rw [← lookup_eq_some_iff_mem hrising]
    cases hlookup : m.lookup a.val with
    | none => exact absurd (by rw [Memory.byteAt, hlookup, Option.getD_none]) hne
    | some v => rw [Memory.byteAt, hlookup, Option.getD_some]

/-- Two memories with rising addresses that list the same cells are equal. -/
theorem eq_of_mem_iff_of_rising {m m' : Memory} (h : m.Pairwise fun x y => x.1 < y.1)
    (h' : m'.Pairwise fun x y => x.1 < y.1) (hmem : ∀ x, x ∈ m ↔ x ∈ m') : m = m' := by
  have hnodup {l : Memory} (hl : l.Pairwise fun x y => x.1 < y.1) : l.Nodup :=
    hl.imp fun hlt heq => absurd (congrArg Prod.fst heq) (Nat.ne_of_lt hlt)
  exact ((List.perm_ext_iff_of_nodup (hnodup h) (hnodup h')).mpr hmem).eq_of_pairwise
    (fun _ _ _ _ hlt hgt => absurd hlt (Nat.lt_asymm hgt)) h h'

/-- Settles O55: the memory of given contents reads so, and the readings of a canonical memory fix what it lists. -/
theorem everyTableContentsHasOneMemory : Obligations.EveryTableContentsHasOneMemory := by
  refine ⟨fun f => ⟨Memory.ofContents f, Memory.wf_ofContents f, Memory.byteAt_ofContents f⟩,
    fun m m' hwf hwf' hread => ?_⟩
  obtain ⟨hrising, -⟩ := (Memory.wf_iff m).mp hwf
  obtain ⟨hrising', -⟩ := (Memory.wf_iff m').mp hwf'
  refine eq_of_mem_iff_of_rising hrising hrising' fun x => ?_
  rw [mem_iff_of_wf hwf, mem_iff_of_wf hwf', funext hread]

end Sys2Proof.Proofs
end

section
/-! PROOFS. The assembler text (30_encoding.md R47; log entries 20 and 21 of the model): the texts of numbers, the line
around an operand, and what a line answers for each form of operand. -/

namespace Sys2Proof.Proofs
open Sys2Proof.Machine Sys2Proof.Laws

/-! ### Digits and numbers -/

/-- The reader takes the character of a decimal digit as that digit. -/
theorem asmDigit_decimal (d : Fin 10) : asmDigit 10 (Claims.digitChar false d.val) = some d.val := by
  revert d; decide

/-- The reader takes the character of a hexadecimal digit, in either case, as that digit. -/
theorem asmDigit_hex (d : Bool × Fin 16) : asmDigit 16 (Claims.digitChar d.1 d.2.val) = some d.2.val := by
  revert d; decide

/-- A character that may stand in the text of a number: it ends no word, and it is none of the signs that the reader
looks for at the head of an operand. -/
def numberChar (c : Char) : Bool := !asmEndsWord c && c != '\'' && c != '-'

theorem numberChar_digitChar (capital : Bool) (d : Fin 16) : numberChar (Claims.digitChar capital d.val) = true := by
  revert capital d; decide

/-- What the operand readers need to know of the text of a number. -/
structure ReadsAsNumber (text : List Char) (n : Nat) : Prop where
  value : asmNat text = some n
  chars : ∀ c ∈ text, numberChar c = true
  ne_nil : text ≠ []

/-- Without the `x` of a hexadecimal number, a text is read in decimal. -/
theorem asmNat_decimal {text : List Char} (hne : text ≠ []) (hx : 'x' ∉ text) : asmNat text = asmDigits 10 0 text := by
  unfold asmNat
  split
  · exact absurd rfl hne
  · exact absurd (by simp) hx
  · exact absurd (by simp) hx
  · rfl

/-- Digits in decimal are read as the number they stand for. -/
theorem asmDigits_decimal (ds : List (Fin 10)) :
    asmDigits 10 0 (ds.map fun d => Claims.digitChar false d.val) = some (Claims.numberOf 10 (ds.map Fin.val)) :=
  asmDigits_map 10 _ Fin.val asmDigit_decimal 0 ds

/-- Decimal digits are number characters, and none is the `x` of a hexadecimal number. -/
theorem digitChar_decimal (d : Fin 10) :
    numberChar (Claims.digitChar false d.val) = true ∧ Claims.digitChar false d.val ≠ 'x' := by
  revert d; decide

theorem readsAsNumber_of_writesDecimal {text : List Char} {n : Nat} (h : Claims.writesDecimal text n) :
    ReadsAsNumber text n := by
  obtain ⟨ds, hne, rfl, rfl⟩ := h
  have hne' : ds.map (fun d => Claims.digitChar false d.val) ≠ [] := mt List.map_eq_nil_iff.mp hne
  refine ⟨?_, List.forall_mem_map.mpr fun d _ => (digitChar_decimal d).1, hne'⟩
  rw [asmNat_decimal hne' fun hx => ?_, asmDigits_decimal]
  obtain ⟨d, -, hd⟩ := List.mem_map.mp hx
  exact (digitChar_decimal d).2 hd

theorem readsAsNumber_of_writesHex {text : List Char} {n : Nat} (h : Claims.writesHex text n) :
    ReadsAsNumber text n := by
  obtain ⟨ds, hne, rfl, rfl⟩ := h
  obtain ⟨d, ds, rfl⟩ := List.exists_cons_of_ne_nil hne
  refine ⟨asmDigits_map 16 _ _ asmDigit_hex 0 (d :: ds), ?_, List.cons_ne_nil _ _⟩
  refine List.forall_mem_cons.mpr ⟨by decide, List.forall_mem_cons.mpr ⟨by decide, ?_⟩⟩
  exact List.forall_mem_map.mpr fun d _ => numberChar_digitChar d.1 d.2

/-- A number's text is read as that number, in decimal or in hexadecimal. -/
theorem readsAsNumber {text : List Char} {n : Nat} (h : Claims.writesDecimal text n ∨ Claims.writesHex text n) :
    ReadsAsNumber text n :=
  h.elim readsAsNumber_of_writesDecimal readsAsNumber_of_writesHex

theorem numberChar_iff (c : Char) : numberChar c = true ↔ asmEndsWord c = false ∧ c ≠ '\'' ∧ c ≠ '-' := by
  simp [numberChar, and_assoc]

theorem ReadsAsNumber.endsNoWord {text : List Char} {n : Nat} (h : ReadsAsNumber text n) :
    ∀ c ∈ text, asmEndsWord c = false := fun c hc =>
  ((numberChar_iff c).mp (h.chars c hc)).1

/-- The text of a number starts with a number character. -/
theorem ReadsAsNumber.exists_head {text : List Char} {n : Nat} (h : ReadsAsNumber text n) :
    ∃ c cs, text = c :: cs ∧ asmEndsWord c = false ∧ c ≠ '\'' ∧ c ≠ '-' := by
  obtain ⟨c, cs, rfl⟩ := List.exists_cons_of_ne_nil h.ne_nil
  exact ⟨c, cs, rfl, (numberChar_iff c).mp (h.chars c (List.mem_cons_self ..))⟩

/-! ### Every number has a text -/

/-- One more digit at the end. -/
theorem numberOf_append_singleton (radix : Nat) (ds : List Nat) (d : Nat) :
    Claims.numberOf radix (ds ++ [d]) = Claims.numberOf radix ds * radix + d := by
  simp [Claims.numberOf]

/-- Every number has digits in every radix from 2 on: those of the quotient, and then the remainder. -/
theorem exists_digits {radix : Nat} (hradix : 2 ≤ radix) (n : Nat) :
    ∃ ds : List (Fin radix), ds ≠ [] ∧ n = Claims.numberOf radix (ds.map Fin.val) := by
  induction n using Nat.strongRecOn with
  | ind n ih =>
    rcases Nat.lt_or_ge n radix with hlt | hge
    · exact ⟨[⟨n, hlt⟩], List.cons_ne_nil _ _, by simp [Claims.numberOf]⟩
    · obtain ⟨ds, -, hds⟩ := ih (n / radix) (Nat.div_lt_self (by omega) hradix)
      refine ⟨ds ++ [⟨n % radix, Nat.mod_lt _ (by omega)⟩], by simp, ?_⟩
      rw [List.map_append, List.map_singleton, numberOf_append_singleton, ← hds, Nat.div_add_mod']

/-- Every number has a decimal and a hexadecimal text. -/
theorem exists_number_texts (n : Nat) : ∃ d h : List Char, Claims.writesDecimal d n ∧ Claims.writesHex h n := by
  obtain ⟨ds, hds, hdec⟩ := exists_digits (radix := 10) (by decide) n
  obtain ⟨hs, hhs, hhex⟩ := exists_digits (radix := 16) (by decide) n
  refine ⟨_, _, ⟨ds, hds, rfl, hdec⟩, ⟨hs.map (false, ·), mt List.map_eq_nil_iff.mp hhs, rfl, ?_⟩⟩
  rw [List.map_map]
  exact hhex

/-! ### The line around an operand -/

theorem asmBlank_of_blankText {t : List Char} (h : Claims.blankText t) : ∀ c ∈ t, asmBlank c = true := fun c hc => by
  rcases h c hc with rfl | rfl
  · decide
  · decide

theorem asmAtEnd_of_endsLine {t : List Char} (h : Claims.endsLine t) : asmAtEnd t = true := by
  obtain ⟨b, hb, rfl | ⟨k, rfl⟩⟩ := h
  · exact asmAtEnd_blank _ (asmBlank_of_blankText hb)
  · exact asmAtEnd_comment b k (asmBlank_of_blankText hb)

/-- White space ends a word. -/
theorem asmBlank_of_endsNoWord {c : Char} (h : asmEndsWord c = false) : asmBlank c = false := by
  rw [asmEndsWord, Bool.or_eq_false_iff] at h
  exact h.1

/-- The parts of a line around its operand: white space, a mnemonic of `op`, white space, and the end of the line. -/
structure LineParts (lead word gap tail : List Char) (op : BitVec 2) : Prop where
  lead_blank : Claims.blankText lead
  mnemonic : Claims.writesMnemonic word op
  gap_blank : Claims.blankText gap
  gap_ne_nil : gap ≠ []
  tail_ends : Claims.endsLine tail

section
variable {lead word gap tail : List Char} {op : BitVec 2} (h : LineParts lead word gap tail op) (x : Byte)
  (y : CodePoint)
include h

/-- A line is read by the operand that its mnemonic selects. -/
theorem LineParts.asmLine_eq {c : Char} (hc : asmBlank c = false) (cs : List Char) :
    asmLine x y (Claims.lineOf lead word gap (c :: cs) tail) =
      if op.getLsbD 1 then
        match asmCodePointOperand (c :: cs ++ tail) with
        | .error e => .error e
        | .ok (n, rest) => if asmAtEnd rest then .ok (some ⟨op, x, n⟩) else .error .trailingText
      else
        match asmCharOperand (c :: cs ++ tail) with
        | .error e => .error e
        | .ok (d, rest) => if asmAtEnd rest then .ok (some ⟨op, d, y⟩) else .error .trailingText := by
  obtain ⟨hword, hends, hne⟩ := asmOp_word word op h.mnemonic
  have hline := asmLine_of_word x y lead word gap c (cs ++ tail) (asmBlank_of_blankText h.lead_blank) hends hne
    (asmBlank_of_blankText h.gap_blank) h.gap_ne_nil hc
  rw [hword] at hline
  exact hline

/-- A quoted operand that the reader takes as `d` gives the request of `d`. -/
theorem LineParts.asmLine_quoted (hop : op.getLsbD 1 = false) {cs : List Char} {d : Byte}
    (hread : asmCharOperand ('\'' :: cs ++ tail) = .ok (d, tail)) :
    asmLine x y (Claims.lineOf lead word gap ('\'' :: cs) tail) = .ok (some ⟨op, d, y⟩) := by
  rw [h.asmLine_eq x y (by decide), hread]
  simp only [hop, Bool.false_eq_true, if_false, asmAtEnd_of_endsLine h.tail_ends, if_true]

/-- A number as a character operand gives its request below 256, and is too wide from there on. -/
theorem LineParts.asmLine_charNumber (hop : op.getLsbD 1 = false) {text : List Char} {n : Nat}
    (hread : ReadsAsNumber text n) :
    asmLine x y (Claims.lineOf lead word gap text tail) =
      if n < 256 then .ok (some ⟨op, BitVec.ofNat 8 n, y⟩) else .error .operandTooWide := by
  have hend := asmAtEnd_of_endsLine h.tail_ends
  obtain ⟨c, cs, rfl, hword, hquote, -⟩ := hread.exists_head
  have hoperand := asmCharOperand_number (c :: cs) tail n hread.endsNoWord (by simpa using hquote) hread.ne_nil hend
    hread.value
  rw [h.asmLine_eq x y (asmBlank_of_endsNoWord hword), hoperand]
  by_cases hn : n < 256
  · simp only [hop, hn, hend, if_true, Bool.false_eq_true, if_false]
  · simp only [hop, hn, Bool.false_eq_true, if_false]

/-- A number as a code point gives its request where it fits in `CP_WIDTH` bits, and is too wide elsewhere. -/
theorem LineParts.asmLine_codePointNumber (hop : op.getLsbD 1 = true) {text : List Char} {n : Nat}
    (hread : ReadsAsNumber text n) :
    asmLine x y (Claims.lineOf lead word gap text tail) =
      if n < 2 ^ Config.cpWidth then .ok (some ⟨op, x, BitVec.ofNat _ n⟩) else .error .operandTooWide := by
  have hend := asmAtEnd_of_endsLine h.tail_ends
  obtain ⟨c, cs, rfl, hword, -, hminus⟩ := hread.exists_head
  have hoperand := asmCodePointOperand_number (c :: cs) tail n hread.endsNoWord (by simpa using hminus) hend hread.value
  rw [h.asmLine_eq x y (asmBlank_of_endsNoWord hword), hoperand]
  by_cases hn : n < 2 ^ Config.cpWidth
  · simp only [hop, hn, hend, if_true]
  · simp only [hop, hn, if_true, if_false]

/-- A negative decimal as a code point gives its two's-complement pattern down to minus 2 to the power `CP_WIDTH` - 1,
and is too wide beyond. -/
theorem LineParts.asmLine_negative (hop : op.getLsbD 1 = true) {text : List Char} {n : Nat}
    (hdec : Claims.writesDecimal text n) :
    asmLine x y (Claims.lineOf lead word gap ('-' :: text) tail) =
      if n ≤ 2 ^ (Config.cpWidth - 1) then .ok (some ⟨op, x, BitVec.ofInt _ (-n)⟩) else .error .operandTooWide := by
  have hend := asmAtEnd_of_endsLine h.tail_ends
  have hread := readsAsNumber_of_writesDecimal hdec
  obtain ⟨ds, -, rfl, rfl⟩ := hdec
  have hoperand := asmCodePointOperand_negative _ tail _ hread.endsNoWord hread.ne_nil hend (asmDigits_decimal ds)
  rw [h.asmLine_eq x y (by decide), hoperand, BitVec.ofInt_neg, BitVec.ofInt_natCast]
  by_cases hn : Claims.numberOf 10 (ds.map Fin.val) ≤ 2 ^ (Config.cpWidth - 1)
  · simp only [hop, hn, hend, if_true]
  · simp only [hop, hn, if_true, if_false]

end

/-! ### The statement -/

/-- Settles O59: the parts of the line lead to its operand, and each form of operand has its reader. -/
theorem assemblerReadsEveryCharLiteral : Obligations.AssemblerReadsEveryCharLiteral := by
  intro x y
  refine ⟨fun lead word gap tail op hlead hword hgap hne htail => ?_,
    fun tail htail => asmLine_of_asmAtEnd x y tail (asmAtEnd_of_endsLine htail), exists_number_texts⟩
  have h : LineParts lead word gap tail op := ⟨hlead, hword, hgap, hne, htail⟩
  refine ⟨fun hop => ⟨fun c hc hquote hslash => ?_, ?_, ?_, fun text n hn => ⟨fun hlt => ?_, fun hge => ?_⟩⟩,
    fun hop => ⟨fun text n hn => ⟨fun hlt => ?_, fun hge => ?_⟩, fun text n hn => ⟨fun hle => ?_, fun hgt => ?_⟩⟩⟩
  · exact h.asmLine_quoted x y hop (asmCharOperand_literal c tail hc hquote hslash)
  · exact h.asmLine_quoted x y hop (asmCharOperand_escape '\'' tail (.inl rfl))
  · exact h.asmLine_quoted x y hop (asmCharOperand_escape '\\' tail (.inr rfl))
  · rw [h.asmLine_charNumber x y hop (readsAsNumber hn), if_pos hlt]
  · rw [h.asmLine_charNumber x y hop (readsAsNumber hn), if_neg (Nat.not_lt.mpr hge)]
  · rw [h.asmLine_codePointNumber x y hop (readsAsNumber hn), if_pos hlt]
  · rw [h.asmLine_codePointNumber x y hop (readsAsNumber hn), if_neg (Nat.not_lt.mpr hge)]
  · rw [h.asmLine_negative x y hop hn, if_pos hle]
  · rw [h.asmLine_negative x y hop hn, if_neg (Nat.not_le.mpr hgt)]

end Sys2Proof.Proofs
end
